-- ==== Sys2Proof/Word.lean ====
section
/-! DEFINITION. The widths of CLOCKIT-TDM (00_scope.md section 5, 30_encoding.md R60, R62, R68): every register and operand is
unsigned, bit 0 is the least significant bit. -/

namespace Sys2Proof

/-- `u8`: a register, a character code, a segment pattern (R41, R63), an event code (R62). -/
abbrev Byte := BitVec 8

/-- `u16`: `time_on`, a period in milliseconds (R60), the response of the command port (R68). -/
abbrev Half := BitVec 16

/-- The 32-bit command word (R60). -/
abbrev CommandWord := BitVec 32

/-- The position-select output, one line per position (R64). -/
abbrev Select := BitVec 5

end Sys2Proof
end

