-- ==== Sys2Proof/Config.lean ====
section
/-! DEFINITION. The implementation parameters of 00_scope.md R3: the record `Config` the step relation takes as an argument,
the fixed quantities, and one opaque constant for each parameter R3 marks OPEN (nothing can be proved of its value). The
configuration the machine of Machine/Core.lean runs with is `Machine.chip` (Machine/Glyphs.lean). -/

namespace Sys2Proof

/-- R11: `0` = AM, `1` = PM. -/
inductive Meridiem where
  | am
  | pm
deriving DecidableEq, Repr, Inhabited

/-- The level of an input line (00_scope.md section 6, `LineRead`). -/
inductive Level where
  | low
  | high
deriving DecidableEq, Repr, Inhabited

/-- A timer channel (R160): 0 fires at 1 Hz and runs TICK, 1 fires at the refresh rate and runs REFRESH. -/
inductive Channel where
  | ch0
  | ch1
deriving DecidableEq, Repr, Inhabited

/-- What position 5 shows in Numeric mode when `PMODE` is not ShowTime (R110, D16). -/
inductive ColonChoice where
  | blank
  | solid
deriving DecidableEq, Repr, Inhabited

/-- The `RST.*` parameters: the boot values of the two time records (R35, I9), each within its register's legal values (R3, R12, R13,
R16), so that no other value can be given. -/
structure ResetValues where
  hours : Byte
  minutes : Byte
  seconds : Byte
  meridiem : Meridiem
  aHours : Byte
  aMinutes : Byte
  aSeconds : Byte
  aMeridiem : Meridiem
  hours_legal : 1 ≤ hours.toNat ∧ hours.toNat ≤ 12
  minutes_legal : minutes.toNat ≤ 59
  seconds_legal : seconds.toNat ≤ 59
  aHours_legal : 1 ≤ aHours.toNat ∧ aHours.toNat ≤ 12
  aMinutes_legal : aMinutes.toNat ≤ 59
  aSeconds_legal : aSeconds.toNat ≤ 59
deriving DecidableEq, Repr

/-- The defaults of R35 (D23): 12:00:00 AM for both records. -/
def ResetValues.standard : ResetValues where
  hours := 12
  minutes := 0
  seconds := 0
  meridiem := .am
  aHours := 12
  aMinutes := 0
  aSeconds := 0
  aMeridiem := .am
  hours_legal := by decide
  minutes_legal := by decide
  seconds_legal := by decide
  aHours_legal := by decide
  aMinutes_legal := by decide
  aSeconds_legal := by decide

/-- The parameters of R3 that a run does not change. Durations are microseconds. -/
structure Config where
  /-- `DWELL_HIGH_US` -/
  dwellHigh : Nat
  /-- `DWELL_LOW_US` -/
  dwellLow : Nat
  /-- `T_BLANK_US` -/
  tBlank : Nat
  /-- `T_SIREN_US` -/
  tSiren : Nat
  /-- `REFRESH_TIME_ON` -/
  refreshTimeOn : Half
  /-- `REFRESH_PERIOD_MS` -/
  refreshPeriodMs : Half
  /-- `COLON_NON_SHOWTIME` -/
  colonNonShowtime : ColonChoice
  /-- `CFG.DIGIT`, ten entries (R81) -/
  digit : Fin 10 → Byte
  /-- `CFG.CHAR`, one entry for every code (R83) -/
  char : Byte → Byte
  /-- `CFG.COLON` (R86) -/
  colon : Byte
  /-- `CFG.DOT` (R86) -/
  dot : Byte
  /-- `CFG.SPEAK` (hours, minutes, meridiem) (R144, D18) -/
  speak : Byte → Byte → Meridiem → List Byte
  /-- `RST.*` (R35) -/
  rst : ResetValues

/-- `TEXT_MAX` (R3, D18). -/
abbrev textMax : Nat := 64
/-- `N_POS` (R3): output positions of a digit cycle. -/
abbrev nPos : Nat := 5
/-- `N_DIGIT` (R3): digit positions. -/
abbrev nDigit : Nat := 4
/-- `N_SEG` (R3, C1): segment lines, the width of a pattern. -/
abbrev nSeg : Nat := 8
/-- `WINDOW` (R3): characters shown at once in ScrollingText mode. -/
abbrev window : Nat := 4
/-- `SCROLL_DIV` (R3): render passes per cursor advance. -/
abbrev scrollDiv : Nat := 10
/-- `TICK_PERIOD_MS` (R3): the one period channel 0 accepts (R161). -/
abbrev tickPeriodMs : Half := 1000

/-! The OPEN parameters. Each constant ranges over what R3 leaves free; `Machine.chip` builds the parameter from it so that
R3's constraint holds whatever the constant is. -/

/-- `DWELL_LOW_US` less 1 (I1). -/
opaque Config.openDwellLow : Nat
/-- `DWELL_HIGH_US` less `DWELL_LOW_US` less 1 (I1). -/
opaque Config.openDwellGap : Nat
/-- `T_BLANK_US` (I2). -/
opaque Config.openBlank : Nat
/-- `T_SIREN_US` less 1 (I3). -/
opaque Config.openSiren : Nat
/-- `REFRESH_TIME_ON` (I4). -/
opaque Config.openRefreshTimeOn : Half
/-- `REFRESH_PERIOD_MS` less 1 (I5), 0 to 65534. -/
opaque Config.openRefreshPeriod : Fin 65535
/-- `CFG.SPEAK` before its cut at `TEXT_MAX` characters (I7). -/
opaque Config.openSpeak : Byte → Byte → Meridiem → List Byte
/-- FREE VALUE: which of two pending callbacks runs first at the n-th such choice (U1, R197). -/
opaque Config.pendingFirst : Nat → Channel
/-- FREE VALUE: the level of `SW_N` at power-on, chosen by the environment (R35, U4). -/
opaque Config.switchAtReset : Level

end Sys2Proof
end

