-- ==== Sys2Proof/Syntax.lean ====
section
/-! DEFINITION. The 14 operations of CLOCKIT-TDM (30_encoding.md R66), one constructor per row of opcode_table.json, the
words that carry them (R60, R62), the refusal codes of the command port (R192) and the names of the registers (R33). -/

namespace Sys2Proof

/-- The operation set, edition 1 (R66). Operands are the fields `a` and `b` as the word gives them (R61). -/
inductive Instr where
  /-- `ENCD d`, R87: digit value in `a`. -/
  | encd (d : Byte)
  /-- `ENCC c`, R88: character code in `a`. -/
  | encc (c : Byte)
  /-- `ENCP g`, R89: glyph selector in `a`. -/
  | encp (g : Byte)
  /-- `RENDER n`, R100: `time_on` in `b`. -/
  | render (n : Half)
  /-- `TREG ch, ms`, R161: channel in `a`, period in `b`. -/
  | treg (ch : Byte) (ms : Half)
  /-- `TREV ch`, R162. -/
  | trev (ch : Byte)
  /-- `TRST ch`, R163. -/
  | trst (ch : Byte)
  /-- `WR r, v`, R180: register number in `a`, value in `b[7:0]`. -/
  | wr (r v : Byte)
  /-- `RD r`, R181. -/
  | rd (r : Byte)
  /-- `WRT i, c`, R182: text index in `a`, character code in `b[7:0]`. -/
  | wrt (i c : Byte)
  /-- `RDT i`, R183. -/
  | rdt (i : Byte)
  /-- `REGEN`, R184. -/
  | regen
  /-- `TICK`, R140: the callback of channel 0. -/
  | tick
  /-- `REFRESH`, R120: the callback of channel 1. -/
  | refresh
deriving DecidableEq, Repr

/-- What carries an operation: a command word, format `C` (R60), or the event code of a channel, format `EV` (R62). -/
inductive Encoded where
  | command (w : CommandWord)
  | event (ev : Byte)
deriving DecidableEq, Repr

/-- The codes a command is refused with (R192). -/
inductive RefuseCode where
  | illegalOpcode
  | badOperand
  | renderRefreshOn
  | timerUnregistered
deriving DecidableEq, Repr

/-- The registers of the map, in the order of their numbers `0x00..0x17` (R33). -/
inductive Reg where
  | hours | minutes | seconds | meridiem | blink
  | aHours | aMinutes | aSeconds | aMeridiem
  | bright | pmode | dmode | cursor | rot | tlen | buzz | ringing
  | switch | seg | pos | tstat0 | tstat1 | fault | encout
deriving DecidableEq, Repr

/-- The callback bound to a channel; the binding is fixed (R160, R62). -/
def Channel.callback : Channel → Instr
  | .ch0 => .tick
  | .ch1 => .refresh

/-- A command of the host, as against a callback of a channel (R66: 12 commands and 2 callbacks). -/
def Instr.isCommand : Instr → Bool
  | .encd _ => true
  | .encc _ => true
  | .encp _ => true
  | .render _ => true
  | .treg _ _ => true
  | .trev _ => true
  | .trst _ => true
  | .wr _ _ => true
  | .rd _ => true
  | .wrt _ _ => true
  | .rdt _ => true
  | .regen => true
  | .tick => false
  | .refresh => false

end Sys2Proof
end

