-- ==== Sys2Proof/WellFormed.lean ====
section
/-! DEFINITION. Which terms of `Instr` have a word. R61: where `a` is a channel number, `a[7:1]` must be zero; every other
operand fills its field. Whether an operand VALUE is legal is the operation's own rule (R66, last paragraph). -/

namespace Sys2Proof

/-- The must-be-zero bits of a channel operand (R61). -/
def channelWellFormed (ch : Byte) : Bool := decide (ch.toNat < 2)

/-- The term has a word that its row of opcode_table.json matches (R61, R66). -/
def Instr.wellFormed : Instr → Bool
  | .encd _ => true
  | .encc _ => true
  | .encp _ => true
  | .render _ => true
  | .treg ch _ => channelWellFormed ch
  | .trev ch => channelWellFormed ch
  | .trst ch => channelWellFormed ch
  | .wr _ _ => true
  | .rd _ => true
  | .wrt _ _ => true
  | .rdt _ => true
  | .regen => true
  | .tick => true
  | .refresh => true

end Sys2Proof
end

