-- ==== Sys2Proof/Decode.lean ====
section
/-! DEFINITION. Decoding of command words and event codes (30_encoding.md R60, R61, R62, R66, R67), total on every word and
rejecting by name, and after it the encoder, written from the same table. -/

namespace Sys2Proof

/-! ## Decoder -/

/-- `word[31:24]` (R60). -/
def fieldOp (w : CommandWord) : Byte := w.extractLsb' 24 8
/-- `word[23:16]` (R60). -/
def fieldA (w : CommandWord) : Byte := w.extractLsb' 16 8
/-- `word[15:0]` (R60). -/
def fieldB (w : CommandWord) : Half := w.extractLsb' 0 16
/-- `b[7:0]`, the value of WR and WRT (R61). -/
def fieldV (w : CommandWord) : Byte := w.extractLsb' 0 8
/-- `b[15:8]`, which WR and WRT hold zero (R61). -/
def fieldBHigh (w : CommandWord) : Byte := w.extractLsb' 8 8

/-- R61: a 1 in a must-be-zero bit of an assigned command is BAD_OPERAND. -/
def whenZero (mbz : Bool) (i : Instr) : Except RefuseCode Instr :=
  if mbz then .ok i else .error .badOperand

/-- R67, R205: first `op`, then the must-be-zero bits; the operand values are the operation's own. -/
def decodeCommand (w : CommandWord) : Except RefuseCode Instr :=
  let a := fieldA w
  let b := fieldB w
  if fieldOp w = 0x01 then whenZero (b == 0) (.encd a)
  else if fieldOp w = 0x02 then whenZero (b == 0) (.encc a)
  else if fieldOp w = 0x03 then whenZero (b == 0) (.encp a)
  else if fieldOp w = 0x10 then whenZero (a == 0) (.render b)
  else if fieldOp w = 0x20 then whenZero (channelWellFormed a) (.treg a b)
  else if fieldOp w = 0x21 then whenZero (channelWellFormed a && b == 0) (.trev a)
  else if fieldOp w = 0x22 then whenZero (channelWellFormed a && b == 0) (.trst a)
  else if fieldOp w = 0x30 then whenZero (fieldBHigh w == 0) (.wr a (fieldV w))
  else if fieldOp w = 0x31 then whenZero (b == 0) (.rd a)
  else if fieldOp w = 0x32 then whenZero (fieldBHigh w == 0) (.wrt a (fieldV w))
  else if fieldOp w = 0x33 then whenZero (b == 0) (.rdt a)
  else if fieldOp w = 0x40 then whenZero (a == 0 && b == 0) .regen
  else .error .illegalOpcode

/-- R62: `ev[7:1]` are zero and `ev[0]` is the channel; the decoder refuses every other code (X3). -/
def decodeEvent (ev : Byte) : Option Channel :=
  if ev = 0x00 then some .ch0 else if ev = 0x01 then some .ch1 else none

/-- The operation a command word or an event code stands for, if any. -/
def decode : Encoded → Option Instr
  | .command w => (decodeCommand w).toOption
  | .event ev => (decodeEvent ev).map Channel.callback

/-- The host's reading: a row of 32 bits is a command word, a row of 8 bits an event code (R60, R62). -/
def decodeTableWord (nbits w : Nat) : Option Instr :=
  if nbits = 32 then decode (.command (BitVec.ofNat 32 w))
  else if nbits = 8 then decode (.event (BitVec.ofNat 8 w))
  else none

/-! ## Encoder -/

/-- `{op, a, b}` (R60). -/
def commandWord (op a : Byte) (b : Half) : CommandWord := (op ++ a) ++ b

/-- `b` with the value in `b[7:0]` and `b[15:8]` zero (R61). -/
def valueOperand (v : Byte) : Half := (0 : Byte) ++ v

/-- The event code of a channel (R62). -/
def Channel.eventCode : Channel → Byte
  | .ch0 => 0x00
  | .ch1 => 0x01

/-- The word of an instruction, by the table of R66. -/
def encode : Instr → Encoded
  | .encd d => .command (commandWord 0x01 d 0)
  | .encc c => .command (commandWord 0x02 c 0)
  | .encp g => .command (commandWord 0x03 g 0)
  | .render n => .command (commandWord 0x10 0 n)
  | .treg ch ms => .command (commandWord 0x20 ch ms)
  | .trev ch => .command (commandWord 0x21 ch 0)
  | .trst ch => .command (commandWord 0x22 ch 0)
  | .wr r v => .command (commandWord 0x30 r (valueOperand v))
  | .rd r => .command (commandWord 0x31 r 0)
  | .wrt i c => .command (commandWord 0x32 i (valueOperand c))
  | .rdt i => .command (commandWord 0x33 i 0)
  | .regen => .command (commandWord 0x40 0 0)
  | .tick => .event Channel.ch0.eventCode
  | .refresh => .event Channel.ch1.eventCode

/-! ## The machine-readable table -/

/-- A row of the table of R66: the mnemonic and the words it matches, `word & mask = match`. -/
structure TableRow where
  mnemonic : String
  value : CommandWord
  mask : CommandWord
deriving DecidableEq, Repr

/-- The 12 rows of format `C` (R66). -/
def commandRows : List TableRow :=
  [⟨"ENCD", 0x01000000, 0xFF00FFFF⟩, ⟨"ENCC", 0x02000000, 0xFF00FFFF⟩, ⟨"ENCP", 0x03000000, 0xFF00FFFF⟩,
   ⟨"RENDER", 0x10000000, 0xFFFF0000⟩, ⟨"TREG", 0x20000000, 0xFFFE0000⟩, ⟨"TREV", 0x21000000, 0xFFFEFFFF⟩,
   ⟨"TRST", 0x22000000, 0xFFFEFFFF⟩, ⟨"WR", 0x30000000, 0xFF00FF00⟩, ⟨"RD", 0x31000000, 0xFF00FFFF⟩,
   ⟨"WRT", 0x32000000, 0xFF00FF00⟩, ⟨"RDT", 0x33000000, 0xFF00FFFF⟩, ⟨"REGEN", 0x40000000, 0xFFFFFFFF⟩]

/-- R66: "A word matches a row when `word & mask = match`." -/
def TableRow.hits (row : TableRow) (w : CommandWord) : Bool := w &&& row.mask == row.value

/-- The mnemonic of an operation, as the table spells it (R66). -/
def Instr.mnemonic : Instr → String
  | .encd _ => "ENCD"
  | .encc _ => "ENCC"
  | .encp _ => "ENCP"
  | .render _ => "RENDER"
  | .treg _ _ => "TREG"
  | .trev _ => "TREV"
  | .trst _ => "TRST"
  | .wr _ _ => "WR"
  | .rd _ => "RD"
  | .wrt _ _ => "WRT"
  | .rdt _ => "RDT"
  | .regen => "REGEN"
  | .tick => "TICK"
  | .refresh => "REFRESH"

end Sys2Proof
end

