-- ==== Sys2Proof/Machine/State.lean ====
section
/-! DEFINITION. The state of the block, exactly as 10_state.md R10 lists it (sections 2 to 7 of that file), beside five
fields of the model's own: the level of the input line, the environment's schedule, the output trace, the responses given and
the counter of free choices. State.reset is R35. -/

namespace Sys2Proof.Machine

/-- R18: `0` ShowTime, `1` SetTime, `2` ShowAlarm, `3` SetAlarm. -/
inductive ProgramMode where
  | showTime
  | setTime
  | showAlarm
  | setAlarm
deriving DecidableEq, Repr

/-- R19: `0` Numeric, `1` ScrollingText. -/
inductive DisplayMode where
  | numeric
  | scrollingText
deriving DecidableEq, Repr

/-- R29: the handler context. -/
inductive HandlerCtx where
  | none
  | refresh
deriving DecidableEq, Repr

/-- R30: who started the render pass in progress. -/
inductive SeqCtx where
  | foreground
  | refresh
deriving DecidableEq, Repr

/-- R30: the next micro-step of the sequencer. -/
inductive Phase where
  | drive
  | blank
  | sirenChk
  | sirenClr
  | scroll
deriving DecidableEq, Repr

/-- The five output positions (R64): 1 to 4 the digits, 5 the colon/indicator slot. -/
inductive Position where
  | p1
  | p2
  | p3
  | p4
  | p5
deriving DecidableEq, Repr

/-- The three output events (00_scope.md section 6); durations in microseconds. -/
inductive TraceEvent where
  | drive (p : Position) (pat : Byte) (d : Nat)
  | blank (t : Nat)
  | siren
deriving DecidableEq, Repr

/-- The state of one timer channel (R28): `T_REG`, `T_EN`, `T_PERIOD`, `T_PEND`. -/
structure TimerChannel where
  reg : Bool
  en : Bool
  period : Half
  pend : Bool
deriving DecidableEq, Repr

/-- What the outside world does next (R50): the host gives a command word, a channel delivers its event code, the switch line
takes a level, power is applied (R220), or nothing, which lets the block make its own next transition. -/
inductive Input where
  | command (w : CommandWord)
  | event (ev : Byte)
  | line (l : Level)
  | powerOn
  | wait
deriving DecidableEq, Repr

/-- The text buffer's contents: (index, code) pairs, indices strictly rising, an unlisted index reads `0x00` (R20, R35). -/
abbrev Memory := List Host.Cell

/-- The time of day without the blink flag: the fields two records share (R11, R16). -/
structure TimeOfDay where
  hours : Byte
  minutes : Byte
  seconds : Byte
  meridiem : Meridiem
deriving DecidableEq, Repr

/-- The state of the block (R10). -/
structure State where
  /-- `HOURS`, R11, R12 -/
  hours : Byte
  /-- `MINUTES`, R11, R13 -/
  minutes : Byte
  /-- `SECONDS`, R11, R13 -/
  seconds : Byte
  /-- `MERIDIEM`, R11 -/
  meridiem : Meridiem
  /-- `BLINK`, R11 -/
  blink : Bool
  /-- `A_HOURS`, R16 -/
  aHours : Byte
  /-- `A_MINUTES`, R16 -/
  aMinutes : Byte
  /-- `A_SECONDS`, R16 -/
  aSeconds : Byte
  /-- `A_MERIDIEM`, R16 -/
  aMeridiem : Meridiem
  /-- `BRIGHT`, R17: true is bright -/
  bright : Bool
  /-- `PMODE`, R18 -/
  pmode : ProgramMode
  /-- `DMODE`, R19 -/
  dmode : DisplayMode
  /-- `CURSOR`, R21 -/
  cursor : Byte
  /-- `ROT`, R22 -/
  rot : Byte
  /-- `TEXT`, R20 -/
  text : Memory
  /-- `TLEN`, R20 -/
  tlen : Byte
  /-- `BUZZ`, R23 -/
  buzz : Bool
  /-- `RINGING`, R24 -/
  ringing : Bool
  /-- `FAULT`, R31 -/
  faultReg : Byte
  /-- `ENCOUT`, R32 -/
  encout : Byte
  /-- `SEG`, R25 -/
  seg : Byte
  /-- `POS`, R26 -/
  pos : Select
  /-- `T_REG[0]`, `T_EN[0]`, `T_PERIOD[0]`, `T_PEND[0]`, R28 -/
  chan0 : TimerChannel
  /-- `T_REG[1]`, `T_EN[1]`, `T_PERIOD[1]`, `T_PEND[1]`, R28 -/
  chan1 : TimerChannel
  /-- `HCTX`, R29 -/
  hctx : HandlerCtx
  /-- `SEQ_ACTIVE`, R30 -/
  seqActive : Bool
  /-- `SEQ_CTX`, R30 -/
  seqCtx : SeqCtx
  /-- `SEQ_N`, R30 -/
  seqN : Half
  /-- `SEQ_REP`, R30 -/
  seqRep : Half
  /-- `SEQ_POS`, R30 -/
  seqPos : Position
  /-- `SEQ_PHASE`, R30 -/
  seqPhase : Phase
  /-- The model's own: the level of `SW_N` now (R27). -/
  swN : Level
  /-- The model's own: the environment's schedule still to come (R50). -/
  inputs : List Input
  /-- The model's own: the output trace, oldest first (D30). -/
  trace : List TraceEvent
  /-- The model's own: the responses returned, oldest first (R68). -/
  responses : List Half
  /-- The model's own: how many free choices have been taken (R197). -/
  choice : Nat
deriving DecidableEq, Repr

/-- Why the machine stops. Every reason is unreachable from reset (Safety.lean, `State.Inv`). -/
inductive Fault where
  /-- Raised by TICK, and by a Numeric slot, on a clock record outside R12, R13: no rule gives a result (X1, X2, R149). Safe. -/
  | clockOutOfRange
  /-- Raised by a ScrollingText slot whose index is below `TLEN` but outside `TEXT`; needs an illegal `TLEN` above 64 (R20). Safe. -/
  | textOutOfRange
deriving DecidableEq, Repr

/-- Why a step has no meaning. -/
inductive Refusal where
  /-- Raised by an arm of exec that has no meaning yet; no arm is left so. Safe. -/
  | notModelled (mnemonic : String)
  /-- Raised by the step for an event code other than `0x00`, `0x01`, which does not occur (R62, X3). Safe. -/
  | undefinedEvent
deriving DecidableEq, Repr

/-- An unregistered channel (R35). -/
def TimerChannel.unregistered : TimerChannel where
  reg := false
  en := false
  period := 0
  pend := false

/-- R35, with the boot values of the two time records as a parameter (R221). -/
def State.resetWith (r : ResetValues) : State where
  hours := r.hours
  minutes := r.minutes
  seconds := r.seconds
  meridiem := r.meridiem
  blink := false
  aHours := r.aHours
  aMinutes := r.aMinutes
  aSeconds := r.aSeconds
  aMeridiem := r.aMeridiem
  bright := true
  pmode := .showTime
  dmode := .numeric
  cursor := 0
  rot := 0
  text := []
  tlen := 0
  buzz := false
  ringing := false
  faultReg := 0
  encout := 0
  seg := 0
  pos := 0
  chan0 := .unregistered
  chan1 := .unregistered
  hctx := .none
  seqActive := false
  seqCtx := .foreground
  seqN := 0
  seqRep := 0
  seqPos := .p1
  seqPhase := .drive
  swN := Config.switchAtReset
  inputs := []
  trace := []
  responses := []
  choice := 0

/-- The block right after reset (R35, R220), with the spec's defaults for `RST.*`. -/
def State.reset : State := State.resetWith .standard

end Sys2Proof.Machine
end

