-- ==== Sys2Proof/Machine/Glyphs.lean ====
section
/-! DEFINITION. The Segment Encoder (40_segment_encoder.md): the default glyph tables (R82, R85, R86), the constraints R3 and
R84 put on every configuration, the encoder's functions (R81, R83, R86) and `chip`, the configuration the machine runs with. -/

namespace Sys2Proof.Machine

/-- R82: the default digit table `CFG.DIGIT`. -/
def defaultDigits : Vector Byte 10 :=
  #v[0x3F, 0x06, 0x5B, 0x4F, 0x66, 0x6D, 0x7D, 0x07, 0x7F, 0x6F]

/-- R85: the default patterns of the letters A to Z. -/
def defaultLetters : Vector Byte 26 :=
  #v[0x77, 0x7C, 0x39, 0x5E, 0x79, 0x71, 0x3D, 0x76, 0x30, 0x1E, 0x75, 0x38, 0x37,
     0x54, 0x3F, 0x73, 0x67, 0x50, 0x6D, 0x78, 0x3E, 0x1C, 0x2A, 0x76, 0x6E, 0x5B]

/-- The codes `'0'..'9'` (R71). -/
def isDigitCode (c : Byte) : Bool := decide (0x30 ≤ c.toNat) && decide (c.toNat ≤ 0x39)
/-- The codes `'A'..'Z'` (R71). -/
def isUpperCode (c : Byte) : Bool := decide (0x41 ≤ c.toNat) && decide (c.toNat ≤ 0x5A)
/-- The codes `'a'..'z'` (R71). -/
def isLowerCode (c : Byte) : Bool := decide (0x61 ≤ c.toNat) && decide (c.toNat ≤ 0x7A)

/-- R83: the accepted set: letters of both cases, digits, `'-'` and the apostrophe. -/
def acceptedCode (c : Byte) : Bool :=
  isDigitCode c || isUpperCode c || isLowerCode c || c == 0x2D || c == 0x27

/-- R85: the default character table `CFG.CHAR`; every other code is blank (R84). -/
def defaultChar (c : Byte) : Byte :=
  if isDigitCode c then defaultDigits.toList.getD (c.toNat - 0x30) 0x00
  else if isUpperCode c then defaultLetters.toList.getD (c.toNat - 0x41) 0x00
  else if isLowerCode c then defaultLetters.toList.getD (c.toNat - 0x61) 0x00
  else if c = 0x2D then 0x40
  else if c = 0x27 then 0x20
  else 0x00

/-- The constraints R3, R83 and R84 put on every configuration. -/
structure LegalConfig (cfg : Config) : Prop where
  dwellLow_pos : 0 < cfg.dwellLow
  dwellLow_lt_high : cfg.dwellLow < cfg.dwellHigh
  siren_pos : 0 < cfg.tSiren
  period_pos : cfg.refreshPeriodMs ≠ 0
  blank_outside : ∀ c, acceptedCode c = false → cfg.char c = 0x00
  case_folded : ∀ c, isLowerCode c = true → cfg.char c = cfg.char (c - 0x20)
  speak_fits : ∀ h m mer, (cfg.speak h m mer).length ≤ textMax

/-- The machine's configuration: the OPEN parameters as opaque constants within the constraints of R3, the others at the values
the spec gives (R82, R85, R86, R110, R35). -/
def chip : Config where
  dwellHigh := Config.openDwellLow + 1 + (Config.openDwellGap + 1)
  dwellLow := Config.openDwellLow + 1
  tBlank := Config.openBlank
  tSiren := Config.openSiren + 1
  refreshTimeOn := Config.openRefreshTimeOn
  refreshPeriodMs := BitVec.ofNat 16 (Config.openRefreshPeriod.val + 1)
  colonNonShowtime := .blank
  digit := fun d => defaultDigits[d]
  char := defaultChar
  colon := 0x03
  dot := 0x80
  speak := fun h m mer => (Config.openSpeak h m mer).take textMax
  rst := .standard

/-- `Enc.Digit(d)` (R81): not defined for `d > 9`, so no pattern is given there (X1). -/
def encDigit (cfg : Config) (d : Byte) : Option Byte :=
  if h : d.toNat < 10 then some (cfg.digit ⟨d.toNat, h⟩) else none

/-- `Enc.Char(c)` (R83), total. -/
def encChar (cfg : Config) (c : Byte) : Byte := cfg.char c

/-- The glyph an ENCP selector names (R86, R89): 0 is the colon, 1 the dot. -/
def encPunctuation (cfg : Config) (g : Byte) : Option Byte :=
  if g = 0 then some cfg.colon else if g = 1 then some cfg.dot else none

end Sys2Proof.Machine
end

