-- ==== Sys2Proof/Machine/Ops.lean ====
section
/-! DEFINITION. The operations the meanings share: the text buffer as memory (R20), responses and refusals (R68, R191), the
timer channels (R28), the firing of a channel, the entry into and the return from a callback (R195, R196, R199, R201), who moves
next (R50, R185), power-on (R220) and durations of the trace (R123). -/

namespace Sys2Proof.Machine

/-- The outcome of a meaning or a step. -/
abbrev Outcome := Host.Outcome State Fault Refusal

/-! ## The text buffer -/

/-- What an index reads that no write has set since reset or regeneration (R35, R144: `0x00`). -/
def unlistedByte : Byte := 0x00

/-- `TEXT[a]`. -/
def Memory.read : Memory → Nat → Byte
  | [], _ => unlistedByte
  | (k, b) :: m, a => if a = k then b else Memory.read m a

/-- `TEXT[a] <- v`, keeping the canonical form: an entry equal to `unlistedByte` is not listed. -/
def Memory.write : Memory → Nat → Byte → Memory
  | [], a, v => if v = unlistedByte then [] else [(a, v)]
  | (k, b) :: m, a, v =>
    if a < k then (if v = unlistedByte then (k, b) :: m else (a, v) :: (k, b) :: m)
    else if a = k then (if v = unlistedByte then m else (a, v) :: m)
    else (k, b) :: Memory.write m a v

/-- The canonical form from index `lo` on: indices strictly rising and inside the buffer, no entry `unlistedByte`. -/
def Memory.wfFrom : Nat → Memory → Bool
  | _, [] => true
  | lo, (k, b) :: m => decide (lo ≤ k) && decide (k < textMax) && b != unlistedByte && Memory.wfFrom (k + 1) m

/-- The text buffer is in canonical form. -/
def Memory.wf (m : Memory) : Bool := Memory.wfFrom 0 m

/-- A string laid down from index `base` on (R45: the first character at the lowest index). -/
def Memory.ofString : Nat → List Byte → Memory
  | _, [] => []
  | base, c :: cs => if c = unlistedByte then Memory.ofString (base + 1) cs else (base, c) :: Memory.ofString (base + 1) cs

/-! ## Responses and refusals -/

/-- R192: the code a refusal records. -/
def refuseCode : RefuseCode → Byte
  | .illegalOpcode => 0x01
  | .badOperand => 0x02
  | .renderRefreshOn => 0x03
  | .timerUnregistered => 0x04

/-- R68: `resp[15:8]` the status, `resp[7:0]` the data. -/
def responseWord (status data : Byte) : Half := status ++ data

/-- R68: the response of a command that was executed. -/
def respond (data : Byte) (s : State) : State := { s with responses := s.responses ++ [responseWord 0x00 data] }

/-- R191: a refused command changes no state except `FAULT`, which keeps the first code; its response carries this code. -/
def refuse (r : RefuseCode) (s : State) : State :=
  { s with
    faultReg := if s.faultReg = 0 then refuseCode r else s.faultReg
    responses := s.responses ++ [responseWord (refuseCode r) 0x00] }

/-! ## The time records -/

/-- WallClock less the blink flag (R11). -/
def State.wallTime (s : State) : TimeOfDay := ⟨s.hours, s.minutes, s.seconds, s.meridiem⟩

/-- AlarmTime (R16). -/
def State.alarmTime (s : State) : TimeOfDay := ⟨s.aHours, s.aMinutes, s.aSeconds, s.aMeridiem⟩

/-- The four counters of WallClock written at once, inside one transition (R51). -/
def State.setTime (s : State) (t : TimeOfDay) : State :=
  { s with hours := t.hours, minutes := t.minutes, seconds := t.seconds, meridiem := t.meridiem }

/-- The displayed time `DT` (R36): WallClock in ShowTime and SetTime, AlarmTime in ShowAlarm and SetAlarm. -/
def State.displayed (s : State) : TimeOfDay :=
  match s.pmode with
  | .showTime => s.wallTime
  | .setTime => s.wallTime
  | .showAlarm => s.alarmTime
  | .setAlarm => s.alarmTime

/-- The text regenerated from WallClock and the cursor reset, one transition (R144, R184). -/
def regenerate (cfg : Config) (s : State) : State :=
  let str := cfg.speak s.hours s.minutes s.meridiem
  { s with text := Memory.ofString 0 str, tlen := BitVec.ofNat 8 str.length, cursor := 0 }

/-! ## Timer channels -/

/-- The state of channel `c` (R28). -/
def State.chan (s : State) : Channel → TimerChannel
  | .ch0 => s.chan0
  | .ch1 => s.chan1

/-- Channel `c` written; the other channel is left alone (R160). -/
def State.setChan (s : State) (c : Channel) (t : TimerChannel) : State :=
  match c with
  | .ch0 => { s with chan0 := t }
  | .ch1 => { s with chan1 := t }

/-- A pending callback whose channel is still in force (R199). -/
def State.due (s : State) (c : Channel) : Bool := (s.chan c).pend && (s.chan c).en

/-- R196: a firing while a handler runs sets the latch and does nothing else. -/
def latch (c : Channel) (s : State) : State := s.setChan c { s.chan c with pend := true }

/-- R199: dispatch clears the latch. -/
def clearPending (c : Channel) (s : State) : State := s.setChan c { s.chan c with pend := false }

/-! ## Entry into a callback and return from it -/

/-- A firing of channel `c`, its callback being `callback`. While the channel is not in force the period elapses without effect
(R164, R166). A firing that finds its latch set is lost, whether the handler still runs or has returned and the latched callback has not
been served yet (R201, R199). Otherwise, with no handler running the callback is dispatched at once (R195), and while one runs the firing
is latched (R196). -/
def takeFiring (callback : State → Outcome) (c : Channel) (s : State) : Outcome :=
  if (s.chan c).en then
    if (s.chan c).pend then .next s
    else
      match s.hctx with
      | .none => callback s
      | .refresh => .next (latch c s)
  else .next s

/-- A render pass begins (R102, R120): `n` digit cycles, in context `ctx`, at the first slot. -/
def startPass (ctx : SeqCtx) (n : Half) (s : State) : State :=
  { s with seqActive := true, seqCtx := ctx, seqN := n, seqRep := 0, seqPos := .p1, seqPhase := .drive }

/-- Entry into the refresh handler (R120, R195): nothing is saved. -/
def enterRefresh (cfg : Config) (s : State) : State :=
  startPass .refresh cfg.refreshTimeOn { s with hctx := .refresh }

/-- `Complete()` (R121): a foreground pass returns its response, a refresh pass returns from the handler; nothing is restored. -/
def complete (s : State) : State :=
  match s.seqCtx with
  | .foreground => respond 0x00 { s with seqActive := false }
  | .refresh => { s with seqActive := false, hctx := .none }

/-- R199, R197: the pending callback to dispatch next, if any, and the state once the choice is made. With both pending the order
is not specified: the choice is a free value. -/
def nextPending (s : State) : Option (Channel × State) :=
  match s.due .ch0, s.due .ch1 with
  | false, false => none
  | true, false => some (.ch0, s)
  | false, true => some (.ch1, s)
  | true, true => some (Config.pendingFirst s.choice, { s with choice := s.choice + 1 })

/-! ## Who moves next -/

/-- One transition of the block or of its environment (R50). -/
inductive Action where
  | line (l : Level)
  | powerOn
  | event (ev : Byte)
  | command (w : CommandWord)
  | serve (c : Channel)
  | sequencer
  | idle
deriving DecidableEq, Repr

/-- The host steps only with no handler running, no render pass in progress (R185) and no callback left to serve (R199). -/
def State.hostMayStep (s : State) : Bool :=
  s.hctx == .none && !s.seqActive && !s.due .ch0 && !s.due .ch1

/-- The block's own next transition: a pending callback once no handler runs (R199), else the sequencer's micro-step (R103), else
none, the block being idle (R220). -/
def ownAction (s : State) : Action × State :=
  match s.hctx, nextPending s with
  | .none, some (c, t) => (.serve c, clearPending c t)
  | _, _ => if s.seqActive then (.sequencer, s) else (.idle, s)

/-- The transition that comes next and the state with its input taken from the schedule. Firings, level changes and power-on fall
where the schedule puts them (R50, U2, U3, U4); a host word waits until the host may step (R185). -/
def arbitrate (s : State) : Action × State :=
  match s.inputs with
  | [] => ownAction s
  | .line l :: rest => (.line l, { s with inputs := rest })
  | .powerOn :: rest => (.powerOn, { s with inputs := rest })
  | .event ev :: rest => (.event ev, { s with inputs := rest })
  | .command w :: rest => if s.hostMayStep then (.command w, { s with inputs := rest }) else ownAction s
  | .wait :: rest => ownAction { s with inputs := rest }

/-- Reset (R220): every piece of state at its value of R35, the `RST.*` values being the configuration's; what the environment holds is
not the block's. -/
def powerOn (cfg : Config) (s : State) : State :=
  { State.resetWith cfg.rst with
    swN := s.swN
    inputs := s.inputs
    trace := s.trace
    responses := s.responses
    choice := s.choice }

/-! ## Durations -/

/-- The microseconds an output event lasts (00_scope.md section 6). -/
def TraceEvent.duration (cfg : Config) : TraceEvent → Nat
  | .drive _ _ d => d
  | .blank t => t
  | .siren => cfg.tSiren

/-- The time a trace takes (R123). -/
def traceDuration (cfg : Config) : List TraceEvent → Nat
  | [] => 0
  | e :: es => e.duration cfg + traceDuration cfg es

end Sys2Proof.Machine
end

