-- ==== Sys2Proof/Machine/Operands.lean ====
section
/-! DEFINITION. The operand forms: channel numbers (R61), register numbers with their access and legal values (R33), text
indices (R43), and the two primitives `RegRead` and `RegWrite` (R180, R181, R186). -/

namespace Sys2Proof.Machine

/-- R161 to R163: a channel operand is 0 or 1. -/
def channelOf (ch : Byte) : Option Channel :=
  if ch = 0 then some .ch0 else if ch = 1 then some .ch1 else none

/-- R43: a text index is below `TEXT_MAX`. -/
def textIndexLegal (i : Byte) : Bool := decide (i.toNat < textMax)

/-! ## Codes of the enumerated registers -/

/-- R33: a one-bit register reads as 0 or 1, zero-extended. -/
def boolByte (b : Bool) : Byte := if b then 1 else 0

/-- R11: AM is 0, PM is 1. -/
def meridiemByte : Meridiem → Byte
  | .am => 0
  | .pm => 1

/-- R11, for the legal values 0 and 1. -/
def meridiemOfByte (v : Byte) : Meridiem := if v = 0 then .am else .pm

/-- R18. -/
def pmodeByte : ProgramMode → Byte
  | .showTime => 0
  | .setTime => 1
  | .showAlarm => 2
  | .setAlarm => 3

/-- R18, for the legal values 0 to 3. -/
def pmodeOfByte (v : Byte) : ProgramMode :=
  if v = 0 then .showTime else if v = 1 then .setTime else if v = 2 then .showAlarm else .setAlarm

/-- R19. -/
def dmodeByte : DisplayMode → Byte
  | .numeric => 0
  | .scrollingText => 1

/-- R19, for the legal values 0 and 1. -/
def dmodeOfByte (v : Byte) : DisplayMode := if v = 0 then .numeric else .scrollingText

/-- R27: register `SWITCH` is 1 when the line is low (engaged). -/
def switchByte : Level → Byte
  | .low => 1
  | .high => 0

/-- R28: `{T_PEND, T_EN, T_REG}` in bits 2, 1, 0. -/
def tstatByte (t : TimerChannel) : Byte :=
  ((BitVec.ofBool t.pend ++ BitVec.ofBool t.en) ++ BitVec.ofBool t.reg).setWidth 8

/-! ## The register map -/

/-- R33: the register a number names; `0x18..0xFF` are unassigned. -/
def regOf (n : Byte) : Option Reg :=
  [Reg.hours, .minutes, .seconds, .meridiem, .blink, .aHours, .aMinutes, .aSeconds, .aMeridiem, .bright, .pmode, .dmode,
   .cursor, .rot, .tlen, .buzz, .ringing, .switch, .seg, .pos, .tstat0, .tstat1, .fault, .encout][n.toNat]?

/-- R33: `ro`. -/
def regReadOnly : Reg → Bool
  | .switch => true
  | .seg => true
  | .pos => true
  | .tstat0 => true
  | .tstat1 => true
  | .fault => true
  | .encout => true
  | _ => false

/-- R12: an hour is 1 to 12. -/
def hourLegal (h : Byte) : Bool := decide (1 ≤ h.toNat) && decide (h.toNat ≤ 12)
/-- R13: a minute or a second is 0 to 59. -/
def sixtyLegal (v : Byte) : Bool := decide (v.toNat ≤ 59)

/-- R33: the legal values a `WR` may write. A read-only register accepts none. -/
def regLegal : Reg → Byte → Bool
  | .hours, v => hourLegal v
  | .minutes, v => sixtyLegal v
  | .seconds, v => sixtyLegal v
  | .meridiem, v => decide (v.toNat ≤ 1)
  | .blink, v => decide (v.toNat ≤ 1)
  | .aHours, v => hourLegal v
  | .aMinutes, v => sixtyLegal v
  | .aSeconds, v => sixtyLegal v
  | .aMeridiem, v => decide (v.toNat ≤ 1)
  | .bright, v => decide (v.toNat ≤ 1)
  | .pmode, v => decide (v.toNat ≤ 3)
  | .dmode, v => decide (v.toNat ≤ 1)
  | .cursor, v => decide (v.toNat < textMax)
  | .rot, v => decide (v.toNat ≤ 9)
  | .tlen, v => decide (v.toNat ≤ textMax)
  | .buzz, v => decide (v.toNat ≤ 1)
  | .ringing, v => decide (v.toNat ≤ 1)
  | .switch, _ => false
  | .seg, _ => false
  | .pos, _ => false
  | .tstat0, _ => false
  | .tstat1, _ => false
  | .fault, _ => false
  | .encout, _ => false

/-- `RegRead(r)`, zero-extended to 8 bits (R181). No read has a side effect (R49). -/
def regRead (r : Reg) (s : State) : Byte :=
  match r with
  | .hours => s.hours
  | .minutes => s.minutes
  | .seconds => s.seconds
  | .meridiem => meridiemByte s.meridiem
  | .blink => boolByte s.blink
  | .aHours => s.aHours
  | .aMinutes => s.aMinutes
  | .aSeconds => s.aSeconds
  | .aMeridiem => meridiemByte s.aMeridiem
  | .bright => boolByte s.bright
  | .pmode => pmodeByte s.pmode
  | .dmode => dmodeByte s.dmode
  | .cursor => s.cursor
  | .rot => s.rot
  | .tlen => s.tlen
  | .buzz => boolByte s.buzz
  | .ringing => boolByte s.ringing
  | .switch => switchByte s.swN
  | .seg => s.seg
  | .pos => s.pos.setWidth 8
  | .tstat0 => tstatByte s.chan0
  | .tstat1 => tstatByte s.chan1
  | .fault => s.faultReg
  | .encout => s.encout

/-- `RegWrite(r, v)` of a legal value to a writable register (R180); a read-only register has no write. -/
def regWrite (r : Reg) (v : Byte) (s : State) : State :=
  match r with
  | .hours => { s with hours := v }
  | .minutes => { s with minutes := v }
  | .seconds => { s with seconds := v }
  | .meridiem => { s with meridiem := meridiemOfByte v }
  | .blink => { s with blink := v != 0 }
  | .aHours => { s with aHours := v }
  | .aMinutes => { s with aMinutes := v }
  | .aSeconds => { s with aSeconds := v }
  | .aMeridiem => { s with aMeridiem := meridiemOfByte v }
  | .bright => { s with bright := v != 0 }
  | .pmode => { s with pmode := pmodeOfByte v }
  | .dmode => { s with dmode := dmodeOfByte v }
  | .cursor => { s with cursor := v }
  | .rot => { s with rot := v }
  | .tlen => { s with tlen := v }
  | .buzz => { s with buzz := v != 0 }
  | .ringing => { s with ringing := v != 0 }
  | .switch => s
  | .seg => s
  | .pos => s
  | .tstat0 => s
  | .tstat1 => s
  | .fault => s
  | .encout => s

end Sys2Proof.Machine
end

