-- ==== Sys2Proof/Machine/Flags.lean ====
section
/-! DEFINITION. The flags of the block (10_state.md, after R32: no arithmetic condition codes) and the conditions computed
from them: the brightness rule (R145, R146), the siren condition (R118), the colon (R110), the dots (R108, R109). -/

namespace Sys2Proof.Machine

/-- The record meets R12 and R13. -/
def TimeOfDay.legal (t : TimeOfDay) : Bool := hourLegal t.hours && sixtyLegal t.minutes && sixtyLegal t.seconds

/-- The inverse of a meridiem, `MERIDIEM xor 1` (R142, R151). -/
def flipMeridiem : Meridiem → Meridiem
  | .am => .pm
  | .pm => .am

/-- `Dim(h, mer)` (R145). -/
def dim (h : Byte) (mer : Meridiem) : Bool :=
  ((decide (h.toNat < 7) || h == 12) && mer == .am) || ((decide (h.toNat > 7) && h != 12) && mer == .pm)

/-- `engaged` (R27): the switch line reads low. -/
def State.engaged (s : State) : Bool := s.swN == .low

/-- The siren condition, its three inputs read at one micro-step (R118). -/
def State.sirenDue (s : State) : Bool := s.engaged && s.ringing && s.buzz

/-- The brightness flag after a tick (R145), frozen in SetTime (R146). -/
def brightAfterTick (s : State) : Bool :=
  if s.pmode = .setTime then s.bright else !dim s.hours s.meridiem

/-- The AM indicator dot of position 3 (R108). -/
def amDot (cfg : Config) (mer : Meridiem) : Byte := if mer = .am then cfg.dot else 0x00

/-- The alarm-armed dot of position 4 (R109). -/
def armedDot (cfg : Config) (s : State) : Byte := if s.engaged then cfg.dot else 0x00

/-- Position 5 in Numeric mode (R110): the colon in ShowTime while `BLINK` is 0; outside ShowTime as `COLON_NON_SHOWTIME` says. -/
def colonSlot (cfg : Config) (s : State) : Byte :=
  if s.pmode = .showTime then (if s.blink then 0x00 else cfg.colon)
  else
    match cfg.colonNonShowtime with
    | .blank => 0x00
    | .solid => cfg.colon

end Sys2Proof.Machine
end

