-- ==== Sys2Proof/Machine/Encoder.lean ====
section
/-! DEFINITION. The encoder commands ENCD, ENCC, ENCP (40_segment_encoder.md section 2). -/

namespace Sys2Proof.Machine

/-- `ENCOUT <- p; resp.data <- ENCOUT` (R87 to R89). -/
def encoderResult (p : Byte) (s : State) : State := respond p { s with encout := p }

/-- R87: ENCD, refused when `d > 9`. -/
def encdWith (cfg : Config) (d : Byte) (s : State) : Outcome :=
  match encDigit cfg d with
  | some p => .next (encoderResult p s)
  | none => .next (refuse .badOperand s)

/-- R88: ENCC, no code is refused. -/
def enccWith (cfg : Config) (c : Byte) (s : State) : Outcome := .next (encoderResult (encChar cfg c) s)

/-- R89: ENCP, refused when `g > 1`. -/
def encpWith (cfg : Config) (g : Byte) (s : State) : Outcome :=
  match encPunctuation cfg g with
  | some p => .next (encoderResult p s)
  | none => .next (refuse .badOperand s)

/-- R87 at the machine's configuration. -/
def execEncd (d : Byte) (s : State) : Outcome := encdWith chip d s

/-- R88 at the machine's configuration. -/
def execEncc (c : Byte) (s : State) : Outcome := enccWith chip c s

/-- R89 at the machine's configuration. -/
def execEncp (g : Byte) (s : State) : Outcome := encpWith chip g s

end Sys2Proof.Machine
end

