-- ==== Sys2Proof/Machine/HostAccess.lean ====
section
/-! DEFINITION. Host access to registers and text: WR, RD, WRT, RDT, REGEN (44_host_access.md). -/

namespace Sys2Proof.Machine

/-- R180, R205: WR; unassigned number, then read-only, then illegal value. -/
def execWr (r v : Byte) (s : State) : Outcome :=
  match regOf r with
  | none => .next (refuse .badOperand s)
  | some reg =>
    if regReadOnly reg then .next (refuse .badOperand s)
    else if regLegal reg v then .next (respond 0x00 (regWrite reg v s))
    else .next (refuse .badOperand s)

/-- R181: RD. -/
def execRd (r : Byte) (s : State) : Outcome :=
  match regOf r with
  | none => .next (refuse .badOperand s)
  | some reg => .next (respond (regRead reg s) s)

/-- R182: WRT; any code is accepted, `TLEN` and `CURSOR` are not touched. -/
def execWrt (i c : Byte) (s : State) : Outcome :=
  if textIndexLegal i then .next (respond 0x00 { s with text := Memory.write s.text i.toNat c })
  else .next (refuse .badOperand s)

/-- R183: RDT. -/
def execRdt (i : Byte) (s : State) : Outcome :=
  if textIndexLegal i then .next (respond (Memory.read s.text i.toNat) s)
  else .next (refuse .badOperand s)

/-- R184: REGEN. -/
def regenWith (cfg : Config) (s : State) : Outcome := .next (respond 0x00 (regenerate cfg s))

/-- R184 at the machine's configuration. -/
def execRegen (s : State) : Outcome := regenWith chip s

end Sys2Proof.Machine
end

