-- ==== Sys2Proof/Machine/Multiplexer.lean ====
section
/-! DEFINITION. The Display Multiplexer (41_display_multiplexer.md): RENDER, REFRESH, the slot patterns and the micro-steps
of a render pass. -/

namespace Sys2Proof.Machine

/-! ## Positions -/

/-- The position after this one in a digit cycle; none after position 5 (R103). -/
def Position.next? : Position → Option Position
  | .p1 => some .p2
  | .p2 => some .p3
  | .p3 => some .p4
  | .p4 => some .p5
  | .p5 => none

/-- `p - 1` (R112). -/
def Position.offset : Position → Nat
  | .p1 => 0
  | .p2 => 1
  | .p3 => 2
  | .p4 => 3
  | .p5 => 4

/-- `1 << (p-1)` (R64). -/
def Position.select : Position → Select
  | .p1 => 0b00001
  | .p2 => 0b00010
  | .p3 => 0b00100
  | .p4 => 0b01000
  | .p5 => 0b10000

/-! ## Slot patterns -/

/-- A digit pattern with an overlay; no result where `Enc.Digit` has none (R81, X1). -/
def digitWith (cfg : Config) (d overlay : Byte) : Except Fault Byte :=
  match encDigit cfg d with
  | some p => .ok (p ||| overlay)
  | none => .error .clockOutOfRange

/-- R106 to R110, Numeric mode, on the displayed time; undefined on a record outside R12, R13 (X2). -/
def numericPattern (cfg : Config) (s : State) (p : Position) : Except Fault Byte :=
  let dt := s.displayed
  if dt.legal then
    match p with
    | .p1 => if dt.hours.toNat ≤ 9 then .ok 0x00 else digitWith cfg (dt.hours / 10) 0x00
    | .p2 => digitWith cfg (dt.hours % 10) 0x00
    | .p3 => digitWith cfg (dt.minutes / 10) (amDot cfg dt.meridiem)
    | .p4 => digitWith cfg (dt.minutes % 10) (armedDot cfg s)
    | .p5 => .ok (colonSlot cfg s)
  else .error .clockOutOfRange

/-- R112, R113, ScrollingText mode: the character at `CURSOR + (p - 1)`, blank from `TLEN` on and at position 5. -/
def textPattern (cfg : Config) (s : State) (p : Position) : Except Fault Byte :=
  let i := s.cursor.toNat + p.offset
  if p = .p5 then .ok 0x00
  else if i < s.tlen.toNat then
    (if i < textMax then .ok (encChar cfg (Memory.read s.text i)) else .error .textOutOfRange)
  else .ok 0x00

/-- `SlotPattern(p)` (R106 to R113), every register read at this micro-step (R114). -/
def slotPattern (cfg : Config) (s : State) (p : Position) : Except Fault Byte :=
  match s.dmode with
  | .numeric => numericPattern cfg s p
  | .scrollingText => textPattern cfg s p

/-- `Dwell()` (R105). -/
def dwell (cfg : Config) (s : State) : Nat := if s.bright then cfg.dwellHigh else cfg.dwellLow

/-! ## Primitives of the sequencer -/

/-- `Drive(p, pat)` (00_scope.md section 6), the dwell `d` following. -/
def drive (p : Position) (pat : Byte) (d : Nat) (s : State) : State :=
  { s with seg := pat, pos := p.select, trace := s.trace ++ [.drive p pat d] }

/-- `BlankAll()` (00_scope.md section 6). -/
def blankAll (cfg : Config) (s : State) : State :=
  { s with seg := 0x00, pos := 0b00000, trace := s.trace ++ [.blank cfg.tBlank] }

/-- `Siren()` (00_scope.md section 6, R118). -/
def siren (s : State) : State := { s with trace := s.trace ++ [.siren] }

/-- `NextCycle()` (R103). -/
def nextCycle (s : State) : State := { s with seqRep := s.seqRep + 1, seqPos := .p1, seqPhase := .drive }

/-- `ScrollAdvance()` (R116, R117), the sums over the naturals (R151). -/
def scrollAdvance (s : State) : State :=
  if s.rot.toNat + 1 ≥ scrollDiv then
    { s with
      rot := 0
      cursor := if s.cursor.toNat + 1 + window > s.tlen.toNat then 0 else s.cursor + 1 }
  else { s with rot := s.rot + 1 }

/-! ## Micro-steps (R103) -/

/-- Phase DRIVE: leave the loop when no cycle is left, else drive the slot. -/
def driveStep (cfg : Config) (s : State) : Outcome :=
  if s.seqRep = s.seqN then .next { s with seqPhase := .scroll }
  else
    match slotPattern cfg s s.seqPos with
    | .ok pat => .next { drive s.seqPos pat (dwell cfg s) s with seqPhase := .blank }
    | .error f => .fault f

/-- Phase BLANK: blank all outputs, then the next position or the siren check. -/
def blankStep (cfg : Config) (s : State) : State :=
  match s.seqPos.next? with
  | some p => { blankAll cfg s with seqPos := p, seqPhase := .drive }
  | none => { blankAll cfg s with seqPhase := .sirenChk }

/-- Phase SIRENCHK (R118). -/
def sirenChkStep (s : State) : State :=
  if s.sirenDue then { siren s with seqPhase := .sirenClr } else nextCycle s

/-- Phase SIRENCLR (R118). -/
def sirenClrStep (s : State) : State := nextCycle { s with buzz := false }

/-- Phase SCROLL, then `Complete()` (R116, R121). -/
def scrollStep (s : State) : State :=
  match s.dmode with
  | .numeric => complete s
  | .scrollingText => complete (scrollAdvance s)

/-- One micro-step, chosen by `SEQ_PHASE` (R103). -/
def microStep (cfg : Config) (s : State) : Outcome :=
  match s.seqPhase with
  | .drive => driveStep cfg s
  | .blank => .next (blankStep cfg s)
  | .sirenChk => .next (sirenChkStep s)
  | .sirenClr => .next (sirenClrStep s)
  | .scroll => .next (scrollStep s)

/-- The sequencer's micro-step of the machine. -/
def sequencerStep (s : State) : Outcome := microStep chip s

/-! ## The operation -/

/-- R100, R102: RENDER, refused while channel 1 is in force, else admitted; its response comes at completion (R121). -/
def execRender (n : Half) (s : State) : Outcome :=
  if s.chan1.en then .next (refuse .renderRefreshOn s) else .next (startPass .foreground n s)

/-- R120: REFRESH, one pass of `REFRESH_TIME_ON` cycles in the handler context; never refused. -/
def refreshWith (cfg : Config) (s : State) : Outcome := .next (enterRefresh cfg s)

/-- R120 at the machine's configuration. -/
def execRefresh (s : State) : Outcome := refreshWith chip s

end Sys2Proof.Machine
end

