-- ==== Sys2Proof/Machine/Tick.lean ====
section
/-! DEFINITION. TICK, the callback of channel 0 (42_time_tick.md). -/

namespace Sys2Proof.Machine

/-- R142: after the increment, 13 becomes 1; reaching 12 inverts the meridiem. -/
def hourCarry (t : TimeOfDay) : TimeOfDay :=
  let h := if t.hours + 1 = 13 then 1 else t.hours + 1
  { t with hours := h, meridiem := if h = 12 then flipMeridiem t.meridiem else t.meridiem }

/-- R141: the minute incremented, carrying into the hour at 60. -/
def minuteCarry (t : TimeOfDay) : TimeOfDay :=
  if t.minutes + 1 = 60 then hourCarry { t with minutes := 0 } else { t with minutes := t.minutes + 1 }

/-- R141: the cascade of one second. -/
def cascade (t : TimeOfDay) : TimeOfDay :=
  if t.seconds + 1 = 60 then minuteCarry { t with seconds := 0 } else { t with seconds := t.seconds + 1 }

/-- R144: the tick changes the minute exactly when `SECONDS` goes from 59 to 0. -/
def minuteChanges (t : TimeOfDay) : Bool := t.seconds + 1 == 60

/-- R140, R148: the cascade, then `BLINK`, then the text, then the brightness, then `BUZZ`, one atomic transition. -/
def tick (cfg : Config) (s : State) : State :=
  let s1 := s.setTime (cascade s.wallTime)
  let s2 := { s1 with blink := !s1.blink }
  let s3 := if minuteChanges s.wallTime then regenerate cfg s2 else s2
  { s3 with bright := brightAfterTick s3, buzz := true }

/-- R140, R149: TICK, total on every state that meets R12 and R13 and not defined on another (X2). -/
def tickWith (cfg : Config) (s : State) : Outcome :=
  if s.wallTime.legal then .next (tick cfg s) else .fault .clockOutOfRange

/-- R140 at the machine's configuration. -/
def execTick (s : State) : Outcome := tickWith chip s

end Sys2Proof.Machine
end

