-- ==== Sys2Proof/Machine/Timer.lean ====
section
/-! DEFINITION. The timer callback interface: TREG, TREV, TRST (43_timer_interface.md). -/

namespace Sys2Proof.Machine

/-- R161: the period is not 0, and on channel 0 it is 1000 ms. -/
def periodLegal (c : Channel) (ms : Half) : Bool :=
  ms != 0 && (c == .ch1 || ms == tickPeriodMs)

/-- R161: TREG. -/
def execTreg (ch : Byte) (ms : Half) (s : State) : Outcome :=
  match channelOf ch with
  | none => .next (refuse .badOperand s)
  | some c =>
    if periodLegal c ms then
      .next (respond 0x00 (s.setChan c { reg := true, en := true, period := ms, pend := false }))
    else .next (refuse .badOperand s)

/-- R162: TREV; the operand before the admission condition (R205). -/
def execTrev (ch : Byte) (s : State) : Outcome :=
  match channelOf ch with
  | none => .next (refuse .badOperand s)
  | some c =>
    if (s.chan c).reg then .next (respond 0x00 (s.setChan c { s.chan c with en := false, pend := false }))
    else .next (refuse .timerUnregistered s)

/-- R163: TRST. -/
def execTrst (ch : Byte) (s : State) : Outcome :=
  match channelOf ch with
  | none => .next (refuse .badOperand s)
  | some c =>
    if (s.chan c).reg then .next (respond 0x00 (s.setChan c { s.chan c with en := true }))
    else .next (refuse .timerUnregistered s)

end Sys2Proof.Machine
end

