-- ==== Sys2Proof/Machine/Dispatch.lean ====
section
/-! DEFINITION. One arm per operation of the table of R66. -/

namespace Sys2Proof.Machine

def exec (i : Instr) (s : State) : Host.Outcome State Fault Refusal :=
  match i with
  | .encd d => Sys2Proof.Machine.execEncd d s
  | .encc c => Sys2Proof.Machine.execEncc c s
  | .encp g => Sys2Proof.Machine.execEncp g s
  | .render n => Sys2Proof.Machine.execRender n s
  | .treg ch ms => Sys2Proof.Machine.execTreg ch ms s
  | .trev ch => Sys2Proof.Machine.execTrev ch s
  | .trst ch => Sys2Proof.Machine.execTrst ch s
  | .wr r v => Sys2Proof.Machine.execWr r v s
  | .rd r => Sys2Proof.Machine.execRd r s
  | .wrt j c => Sys2Proof.Machine.execWrt j c s
  | .rdt j => Sys2Proof.Machine.execRdt j s
  | .regen => Sys2Proof.Machine.execRegen s
  | .tick => Sys2Proof.Machine.execTick s
  | .refresh => Sys2Proof.Machine.execRefresh s

end Sys2Proof.Machine
end

