-- ==== Sys2Proof/Machine/Relation.lean ====
section
/-! DEFINITION. The step relation with the parameters of R3 as its argument (10_state.md R10, 20_memory.md R50): what an operation does
under a configuration, and one transition of the block or of its environment. The machine of Step.lean is the instance at `chip`. -/

namespace Sys2Proof.Machine

/-- The meaning of an operation under a configuration (R66); the operations that read no parameter are those of exec. -/
def execWith (cfg : Config) (i : Instr) (s : State) : Outcome :=
  match i with
  | .encd d => encdWith cfg d s
  | .encc c => enccWith cfg c s
  | .encp g => encpWith cfg g s
  | .render n => execRender n s
  | .treg ch ms => execTreg ch ms s
  | .trev ch => execTrev ch s
  | .trst ch => execTrst ch s
  | .wr r v => execWr r v s
  | .rd r => execRd r s
  | .wrt j c => execWrt j c s
  | .rdt j => execRdt j s
  | .regen => regenWith cfg s
  | .tick => tickWith cfg s
  | .refresh => refreshWith cfg s

/-- A command word given to the port: executed, or refused by name (R60, R67). -/
def giveCommand (meaning : Instr → State → Outcome) (w : CommandWord) (s : State) : Outcome :=
  match decodeCommand w with
  | .ok i => meaning i s
  | .error r => .next (refuse r s)

/-- An event code delivered by a firing channel (R62, R195, R196). -/
def deliverEvent (meaning : Instr → State → Outcome) (ev : Byte) (s : State) : Outcome :=
  match decodeEvent ev with
  | some c => takeFiring (meaning c.callback) c s
  | none => .refused .undefinedEvent

/-- One transition: what `arbitrate` says comes next, on the state with its input taken. -/
def transition (meaning : Instr → State → Outcome) (cfg : Config) (s : State) : Outcome :=
  match arbitrate s with
  | (.line l, t) => .next { t with swN := l }
  | (.powerOn, t) => .next (powerOn cfg t)
  | (.event ev, t) => deliverEvent meaning ev t
  | (.command w, t) => giveCommand meaning w t
  | (.serve c, t) => meaning c.callback t
  | (.sequencer, t) => microStep cfg t
  | (.idle, t) => .next t

/-- The step relation: the configuration is its parameter (R10). -/
def stepWith (cfg : Config) (s : State) : Outcome := transition (execWith cfg) cfg s

end Sys2Proof.Machine
end

