-- ==== Sys2Proof/Machine/Step.lean ====
section
/-! DEFINITION. The step of the machine: one transition of the block or of its environment (20_memory.md R50) at the configuration
`chip`. -/

namespace Sys2Proof.Machine

/-- One transition of the machine: exec gives the meanings, `chip` the parameters. -/
def step (s : State) : Host.Outcome State Fault Refusal := transition exec chip s

/-- The next input is the word: for 32 bits a command word, which the host may give once no handler runs, no pass is in progress and
nothing is pending (R185, R199); for 8 bits the event code of a channel that is registered and in force, its latch clear and no handler
running (R164, R195, R201). At reset only the channel's registration is more than the input itself. -/
def State.withFetchWord (s : State) (nbits w : Nat) : State :=
  if nbits = 8 then
    { (match decodeEvent (BitVec.ofNat 8 w) with
       | some c => s.setChan c { s.chan c with reg := true, en := true, pend := false }
       | none => s) with
      hctx := .none
      inputs := .event (BitVec.ofNat 8 w) :: s.inputs }
  else
    { s with
      hctx := .none
      seqActive := false
      chan0 := { s.chan0 with pend := false }
      chan1 := { s.chan1 with pend := false }
      inputs := .command (BitVec.ofNat 32 w) :: s.inputs }

end Sys2Proof.Machine
end

