-- ==== Sys2Proof/Safety.lean ====
section
/-! DEFINITION. The terms claims are stated in: the invariant of the block (10_state.md R12 to R14, R26, R29, R30, R33;
41_display_multiplexer.md R115), quiescent states and safe runs (70_reset_and_hazards.md R236, 60_exceptions.md R191), runs that
keep the periods (43_timer_interface.md R164, R232), the two conditions on the parameters (R230, R231), and the legality of operand values (R66, R192). -/

namespace Sys2Proof.Machine

/-- The dwell of a slot is in progress: the sequencer has driven it and has not blanked it yet (R103, R115). -/
def State.dwelling (s : State) : Bool := s.seqActive && s.seqPhase == .blank

/-- A channel's bits: pending only while in force, in force only when registered, registered only with a period (R161 to R163). -/
def TimerChannel.legal (t : TimerChannel) : Bool :=
  (!t.pend || t.en) && (!t.en || t.reg) && (!t.reg || t.period != 0)

/-- Where the sequencer stands in its loop (R30, R103). -/
def State.SeqPlaced (s : State) : Prop :=
  match s.seqPhase with
  | .drive => s.seqRep.toNat ≤ s.seqN.toNat ∧ (s.seqRep = s.seqN → s.seqPos = .p1)
  | .blank => s.seqRep.toNat < s.seqN.toNat
  | .sirenChk => s.seqRep.toNat < s.seqN.toNat ∧ s.seqPos = .p5
  | .sirenClr => s.seqRep.toNat < s.seqN.toNat ∧ s.seqPos = .p5
  | .scroll => s.seqRep = s.seqN ∧ s.seqPos = .p1

/-- The invariant of the block: what every reachable state meets. -/
structure State.Inv (s : State) : Prop where
  /-- R12, R13 -/
  clock : s.wallTime.legal = true
  /-- R14 -/
  alarm : s.alarmTime.legal = true
  /-- R21 -/
  cursor : s.cursor.toNat < textMax
  /-- R22 -/
  rot : s.rot.toNat ≤ 9
  /-- R20 -/
  tlen : s.tlen.toNat ≤ textMax
  /-- the text buffer's canonical form -/
  text : Memory.wf s.text = true
  /-- R31, R192 -/
  fault : s.faultReg.toNat ≤ 4
  /-- R115 outside the dwell -/
  blanked : s.dwelling = false → s.seg = 0x00 ∧ s.pos = 0b00000
  /-- R115 within the dwell -/
  selected : s.dwelling = true → s.pos = s.seqPos.select
  /-- R29 -/
  handler : s.hctx = .refresh ↔ (s.seqActive = true ∧ s.seqCtx = .refresh)
  /-- R53, R102: during a foreground pass channel 1 is not in force and nothing is pending -/
  foreground : s.seqActive = true → s.seqCtx = .foreground → s.chan1.en = false ∧ s.chan0.pend = false
  /-- R28 -/
  channel0 : s.chan0.legal = true
  /-- R28 -/
  channel1 : s.chan1.legal = true
  /-- R161 -/
  period0 : s.chan0.reg = true → s.chan0.period = tickPeriodMs
  /-- R30 -/
  placed : s.seqActive = true → s.SeqPlaced

/-- R236: no handler running, no render pass in progress, nothing pending. -/
def State.quiescent (s : State) : Bool := s.hctx == .none && !s.seqActive && !s.chan0.pend && !s.chan1.pend

/-- A finite run of `k` transitions that never stops and in which no command was refused (R191, R236). -/
def SafeRun (k : Nat) (s : State) : Prop :=
  ∃ t, Host.Core.run ⟨State, Fault, Refusal, step, State.reset⟩ k s = .next t ∧ t.faultReg = 0

/-! ## Unending runs and the clockless reading of the periods (R164, R232, R236)

A run is an interleaving without end (R236). `σ n` is the n-th state and `env n` what the environment has for the transition from it: the
block takes it, or moves by itself and leaves it (a host word waits, R185). -/

/-- The state with one input to come. -/
def State.given (s : State) (e : Input) : State := { s with inputs := [e] }

/-- `σ` is a run under `cfg` in the environment `env`. -/
def IsRun (cfg : Config) (σ : Nat → State) (env : Nat → Input) : Prop :=
  ∀ n, stepWith cfg ((σ n).given (env n)) = .next (σ (n + 1))

/-- The transition is a firing of channel `c`, in force (R164). -/
def State.fires (c : Channel) (s : State) : Bool :=
  match arbitrate s with
  | (.event ev, t) => decodeEvent ev == some c && (t.chan c).en
  | _ => false

/-- The transition runs the callback of channel `c`: dispatched at a firing (R195) or served from the latch (R199). -/
def State.dispatches (c : Channel) (s : State) : Bool :=
  match arbitrate s with
  | (.event ev, t) => decodeEvent ev == some c && (t.chan c).en && !(t.chan c).pend && t.hctx == .none
  | (.serve d, _) => d == c
  | _ => false

/-- R164, "once per period" without a clock, the fairness assumption: from every point on, channel `c` fires again or is found not in
force. -/
def FiresAgain (c : Channel) (σ : Nat → State) (env : Nat → Input) : Prop :=
  ∀ n, ∃ m, n ≤ m ∧ (((σ m).chan c).en = false ∨ ((σ m).given (env m)).fires c = true)

/-- R232, the trace law: between two consecutive `TICK`s with channel 0 in force all the while, the durations of the trace events add up to
at most one second. DESIGN CHOICE (log 23): a `TREG 0` or `TRST 0` given while channel 0 is in force does not lift the bound, though R161 and
R167 leave the phase after it open and no rule reconciles the two. -/
def SecondHolds (cfg : Config) (σ : Nat → State) (env : Nat → Input) : Prop :=
  ∀ m n, m < n → ((σ m).given (env m)).dispatches .ch0 = true → ((σ n).given (env n)).dispatches .ch0 = true →
    (∀ k, m < k → k < n → ((σ k).given (env k)).dispatches .ch0 = false) →
    (∀ k, m < k → k ≤ n → (σ k).chan0.en = true) →
    ∃ es, (σ n).trace = (σ (m + 1)).trace ++ es ∧ traceDuration cfg es ≤ 1000000

/-- R164: the run keeps the periods, in the reading of a model without a clock. A claim about such runs alone takes it as a premise. -/
structure OnTime (cfg : Config) (σ : Nat → State) (env : Nat → Input) : Prop where
  /-- channel 0 fires again and again while in force -/
  ticks : FiresAgain .ch0 σ env
  /-- channel 1 fires again and again while in force -/
  refreshes : FiresAgain .ch1 σ env
  /-- R232 -/
  second : SecondHolds cfg σ env

/-- The longest refresh handler in microseconds (R230). -/
def longestHandler (cfg : Config) : Nat :=
  cfg.refreshTimeOn.toNat * nPos * (cfg.dwellHigh + cfg.tBlank) + cfg.tSiren

/-- R230: no firing of channel 0 can be lost. -/
def NoLostSecond (cfg : Config) : Prop := longestHandler cfg < 1000000

/-- R231: the foreground gets time. -/
def HostProgress (cfg : Config) : Prop := longestHandler cfg < cfg.refreshPeriodMs.toNat * 1000

/-- The operand values an operation accepts (R66 last paragraph, R192 `BAD_OPERAND`); admission conditions are not operands. -/
def operandsLegal : Instr → Bool
  | .encd d => decide (d.toNat ≤ 9)
  | .encc _ => true
  | .encp g => decide (g.toNat ≤ 1)
  | .render _ => true
  | .treg ch ms => decide (ch.toNat ≤ 1) && ms != 0 && (ch != 0 || ms == 1000)
  | .trev ch => decide (ch.toNat ≤ 1)
  | .trst ch => decide (ch.toNat ≤ 1)
  | .wr r v =>
    match regOf r with
    | some reg => !regReadOnly reg && regLegal reg v
    | none => false
  | .rd r => decide (r.toNat ≤ 0x17)
  | .wrt i _ => decide (i.toNat < 64)
  | .rdt i => decide (i.toNat < 64)
  | .regen => true
  | .tick => true
  | .refresh => true

end Sys2Proof.Machine
end

