-- ==== Sys2Proof/Certificates/Slice0/Obligations.lean ====
section
/-! DEFINITION. The statements about the model, from the numbered rules of spec/. The tables the statements compare with are
written out here from the spec, apart from the model's own (namespace `Claims`). -/

open Sys2Proof Sys2Proof.Machine

namespace Sys2Proof.Claims

/-! ## Tables of the spec, written out again -/

/-- R82: the numerals 0 to 9. -/
def numerals : List Byte := [0x3F, 0x06, 0x5B, 0x4F, 0x66, 0x6D, 0x7D, 0x07, 0x7F, 0x6F]

/-- R85: code and pattern of every accepted code that is no lower-case letter. -/
def glyphs : List (Byte × Byte) :=
  [(0x30, 0x3F), (0x31, 0x06), (0x32, 0x5B), (0x33, 0x4F), (0x34, 0x66), (0x35, 0x6D), (0x36, 0x7D), (0x37, 0x07),
   (0x38, 0x7F), (0x39, 0x6F), (0x2D, 0x40), (0x27, 0x20)] ++
  [(0x41, 0x77), (0x42, 0x7C), (0x43, 0x39), (0x44, 0x5E), (0x45, 0x79), (0x46, 0x71), (0x47, 0x3D), (0x48, 0x76),
   (0x49, 0x30), (0x4A, 0x1E), (0x4B, 0x75), (0x4C, 0x38), (0x4D, 0x37)] ++
  [(0x4E, 0x54), (0x4F, 0x3F), (0x50, 0x73), (0x51, 0x67), (0x52, 0x50), (0x53, 0x6D), (0x54, 0x78), (0x55, 0x3E),
   (0x56, 0x1C), (0x57, 0x2A), (0x58, 0x76), (0x59, 0x6E), (0x5A, 0x5B)]

/-- R83 to R85: a lower-case letter has its upper-case letter's pattern; a code outside the accepted set is blank. -/
def glyph (c : Byte) : Byte :=
  (glyphs.lookup (if 0x61 ≤ c.toNat ∧ c.toNat ≤ 0x7A then c - 0x20 else c)).getD 0x00

/-- R33: the writable registers with the least and the greatest legal value. -/
def writable : List (Nat × Nat × Nat) :=
  [(0x00, 1, 12), (0x01, 0, 59), (0x02, 0, 59), (0x03, 0, 1), (0x04, 0, 1), (0x05, 1, 12), (0x06, 0, 59), (0x07, 0, 59),
   (0x08, 0, 1), (0x09, 0, 1), (0x0A, 0, 3), (0x0B, 0, 1), (0x0C, 0, 63), (0x0D, 0, 9), (0x0E, 0, 64), (0x0F, 0, 1),
   (0x10, 0, 1)]

/-- 0 or 1. -/
def bit (b : Bool) : Byte := if b then 1 else 0

/-- R28: bits 2, 1, 0 of TSTAT. -/
def tstat (t : TimerChannel) : Byte := 4 * bit t.pend + 2 * bit t.en + bit t.reg

/-- R33: what the registers `0x00` to `0x17` read, in order. -/
def registers (s : State) : List Byte :=
  [s.hours, s.minutes, s.seconds, bit (s.meridiem = .pm), bit s.blink, s.aHours, s.aMinutes, s.aSeconds,
   bit (s.aMeridiem = .pm), bit s.bright,
   (match s.pmode with | .showTime => 0 | .setTime => 1 | .showAlarm => 2 | .setAlarm => 3),
   bit (s.dmode = .scrollingText), s.cursor, s.rot, s.tlen, bit s.buzz, bit s.ringing, bit (s.swN = .low), s.seg,
   BitVec.ofNat 8 s.pos.toNat, tstat s.chan0, tstat s.chan1, s.faultReg, s.encout]

/-- R33: what register number `r` reads. -/
def register (s : State) (r : Byte) : Byte := (registers s).getD r.toNat 0

/-- The state that no register number reaches whole: text, timer periods, contexts, the sequencer and the model's own. -/
def SameUnnumbered (s t : State) : Prop :=
  t.text = s.text ∧ t.chan0 = s.chan0 ∧ t.chan1 = s.chan1 ∧ t.hctx = s.hctx ∧ t.seqActive = s.seqActive ∧
  t.seqCtx = s.seqCtx ∧ t.seqN = s.seqN ∧ t.seqRep = s.seqRep ∧ t.seqPos = s.seqPos ∧ t.seqPhase = s.seqPhase ∧
  t.swN = s.swN ∧ t.inputs = s.inputs ∧ t.trace = s.trace ∧ t.choice = s.choice

/-- R191: the state after a refusal with the code `code`: `FAULT` keeps the first code, the response carries this one. -/
def refusedWith (code : Byte) (s : State) : State :=
  { s with
    faultReg := if s.faultReg = 0 then code else s.faultReg
    responses := s.responses ++ [code ++ (0x00 : Byte)] }

/-- R68: the state with the response of an executed command added. -/
def answered (data : Byte) (s : State) : State := { s with responses := s.responses ++ [(0x00 : Byte) ++ data] }

/-- R12, R13 in numbers. -/
def ClockLegal (t : TimeOfDay) : Prop :=
  1 ≤ t.hours.toNat ∧ t.hours.toNat ≤ 12 ∧ t.minutes.toNat ≤ 59 ∧ t.seconds.toNat ≤ 59

/-- R145 in numbers. -/
def IsDim (h : Nat) (mer : Meridiem) : Prop :=
  ((h < 7 ∨ h = 12) ∧ mer = .am) ∨ ((h > 7 ∧ h ≠ 12) ∧ mer = .pm)

/-- The pattern of a digit value of a configuration (R81). -/
def digitOf (cfg : Config) (n : Nat) : Byte := if h : n < 10 then cfg.digit ⟨n, h⟩ else 0x00

/-- R36: the record shown. -/
def shown (s : State) : TimeOfDay :=
  if s.pmode = .showTime ∨ s.pmode = .setTime then ⟨s.hours, s.minutes, s.seconds, s.meridiem⟩
  else ⟨s.aHours, s.aMinutes, s.aSeconds, s.aMeridiem⟩

/-- R106 to R110, for every configuration. -/
def numericSlot (cfg : Config) (s : State) (p : Position) : Byte :=
  let h := (shown s).hours.toNat
  let m := (shown s).minutes.toNat
  match p with
  | .p1 => if h ≤ 9 then 0x00 else digitOf cfg (h / 10)
  | .p2 => digitOf cfg (h % 10)
  | .p3 => digitOf cfg (m / 10) ||| (if (shown s).meridiem = .am then cfg.dot else 0x00)
  | .p4 => digitOf cfg (m % 10) ||| (if s.swN = .low then cfg.dot else 0x00)
  | .p5 =>
    if s.pmode = .showTime then (if s.blink = false then cfg.colon else 0x00)
    else if cfg.colonNonShowtime = .solid then cfg.colon else 0x00

/-- R112, R113, for every configuration. -/
def textSlot (cfg : Config) (s : State) (p : Position) : Byte :=
  match p with
  | .p1 => if s.cursor.toNat < s.tlen.toNat then cfg.char (Memory.read s.text s.cursor.toNat) else 0x00
  | .p2 => if s.cursor.toNat + 1 < s.tlen.toNat then cfg.char (Memory.read s.text (s.cursor.toNat + 1)) else 0x00
  | .p3 => if s.cursor.toNat + 2 < s.tlen.toNat then cfg.char (Memory.read s.text (s.cursor.toNat + 2)) else 0x00
  | .p4 => if s.cursor.toNat + 3 < s.tlen.toNat then cfg.char (Memory.read s.text (s.cursor.toNat + 3)) else 0x00
  | .p5 => 0x00

/-- The pattern of position `p` in the mode in force. -/
def slot (cfg : Config) (s : State) (p : Position) : Byte :=
  if s.dmode = .numeric then numericSlot cfg s p else textSlot cfg s p

/-- R105. -/
def dwellOf (cfg : Config) (s : State) : Nat := if s.bright then cfg.dwellHigh else cfg.dwellLow

/-- R64: the line of a position. -/
def line : Position → Select
  | .p1 => 0b00001
  | .p2 => 0b00010
  | .p3 => 0b00100
  | .p4 => 0b01000
  | .p5 => 0b10000

/-- R104: the ten output events of one digit cycle during which nothing changes. -/
def cycle (s : State) : List TraceEvent :=
  [Position.p1, .p2, .p3, .p4, .p5].flatMap fun p =>
    [.drive p (slot chip s p) (dwellOf chip s), .blank chip.tBlank]

/-- `n` cycles. -/
def cycles (s : State) : Nat → List TraceEvent
  | 0 => []
  | n + 1 => cycle s ++ cycles s n

/-- R116, R117: `ROT` and `CURSOR` after a pass. -/
def scrolled (s : State) : State :=
  if s.dmode = .scrollingText then
    (if s.rot.toNat = 9 then
      { s with rot := 0, cursor := if s.cursor.toNat + 1 + 4 > s.tlen.toNat then 0 else s.cursor + 1 }
    else { s with rot := s.rot + 1 })
  else s

/-- The sequencer's turn: a pass is in progress, nothing comes from outside, and no pending callback goes first (R199). -/
def SequencerTurn (s : State) : Prop :=
  s.seqActive = true ∧ s.inputs = [] ∧
    (s.hctx = .refresh ∨ (s.chan0.pend = false ∧ s.chan1.pend = false))

/-- What the environment has next is power-on (R220). -/
def PowerComing (s : State) : Prop := ∃ rest, s.inputs = .powerOn :: rest

/-- The host gives a command and it is `i`. -/
def HostGives (s : State) (i : Instr) : Prop := ∃ w rest, s.inputs = .command w :: rest ∧ decodeCommand w = .ok i

/-- The transition of the machine from `s` to `t` is the sequencer's micro-step of phase `ph` (R103). -/
def IsMicroStep (s t : State) (ph : Phase) : Prop :=
  ∃ u, arbitrate s = (.sequencer, u) ∧ sequencerStep u = .next t ∧ u.seqPhase = ph

/-- The transition of the machine from `s` to `t` is the `TICK` of a firing of channel 0 (R195). -/
def IsTick (s t : State) : Prop :=
  ∃ rest, s.inputs = .event 0x00 :: rest ∧ exec .tick { s with inputs := rest } = .next t

/-- `n` ticks, one after another. -/
def ticks : Nat → State → Outcome
  | 0, s => .next s
  | n + 1, s =>
    match exec .tick s with
    | .next t => ticks n t
    | .fault f => .fault f
    | .refused r => .refused r

/-- The time of day after `n` cascades. -/
def cascades : Nat → TimeOfDay → TimeOfDay
  | 0, t => t
  | n + 1, t => cascades n (cascade t)

end Sys2Proof.Claims

open Sys2Proof.Claims

/-! ## Encoding -/

/-- R60, R61, R62, R66: no bit of an encoding is dropped, for all 14 operations. -/
def Obligations.DecodeOfEncodeIsTheInstruction : Prop :=
  ∀ i : Instr, i.wellFormed = true → decode (encode i) = some i

/-- R60, R61, R66: each word has one meaning and the decoder gives only terms that have a word. -/
def Obligations.EncodeOfDecodeIsTheWord : Prop :=
  ∀ (e : Encoded) (i : Instr), decode e = some i → encode i = e ∧ i.wellFormed = true

/-- R66: a command word matches a row of the table exactly when it decodes to that row's operation. -/
def Obligations.WordMatchesItsTableRow : Prop :=
  ∀ (w : CommandWord) (row : TableRow), row ∈ commandRows →
    (w &&& row.mask = row.value ↔ ∃ i, decodeCommand w = .ok i ∧ i.mnemonic = row.mnemonic)

/-- The worked encodings of 30_encoding.md section 8. -/
def Obligations.WorkedEncodingsDecode : Prop :=
  decodeCommand 0x01070000 = .ok (.encd 7) ∧ decodeCommand 0x02540000 = .ok (.encc 0x54) ∧
  decodeCommand 0x03000000 = .ok (.encp 0) ∧ decodeCommand 0x10000002 = .ok (.render 2) ∧
  decodeCommand 0x200003E8 = .ok (.treg 0 1000) ∧ decodeCommand 0x20010010 = .ok (.treg 1 16) ∧
  decodeCommand 0x21010000 = .ok (.trev 1) ∧ decodeCommand 0x22010000 = .ok (.trst 1) ∧
  decodeCommand 0x30000009 = .ok (.wr 0x00 9) ∧ decodeCommand 0x30010005 = .ok (.wr 0x01 5) ∧
  decodeCommand 0x31110000 = .ok (.rd 0x11) ∧ decodeCommand 0x3203006C = .ok (.wrt 3 0x6C) ∧
  decodeCommand 0x33030000 = .ok (.rdt 3) ∧ decodeCommand 0x40000000 = .ok .regen

/-- R62: the two event codes and their callbacks, no other code, and no command word that issues a callback. -/
def Obligations.EventCodesNameTheCallbacks : Prop :=
  (decodeEvent 0x00).map Channel.callback = some .tick ∧
  (decodeEvent 0x01).map Channel.callback = some .refresh ∧
  (∀ ev : Byte, 2 ≤ ev.toNat → decodeEvent ev = none) ∧
  (∀ (w : CommandWord) (i : Instr), decodeCommand w = .ok i → i ≠ .tick ∧ i ≠ .refresh)

/-- R67, R191: an unassigned `op` is refused with ILLEGAL_OPCODE and changes nothing but `FAULT`. -/
def Obligations.UnassignedOpcodeIsRefused : Prop :=
  ∀ (s : State) (w : CommandWord) (rest : List Input),
    (w >>> 24).toNat ∉ [0x01, 0x02, 0x03, 0x10, 0x20, 0x21, 0x22, 0x30, 0x31, 0x32, 0x33, 0x40] →
    s.hostMayStep = true → s.inputs = .command w :: rest →
    step s = .next (refusedWith 0x01 { s with inputs := rest })

/-- R61, R191: an assigned `op` with a 1 in a must-be-zero bit is refused with BAD_OPERAND, never executed as if the bit were 0. -/
def Obligations.MustBeZeroBitIsRefused : Prop :=
  ∀ (s : State) (w : CommandWord) (rest : List Input),
    (w >>> 24).toNat ∈ [0x01, 0x02, 0x03, 0x10, 0x20, 0x21, 0x22, 0x30, 0x31, 0x32, 0x33, 0x40] →
    (∀ row ∈ commandRows, w &&& row.mask ≠ row.value) →
    s.hostMayStep = true → s.inputs = .command w :: rest →
    step s = .next (refusedWith 0x02 { s with inputs := rest })

/-! ## The step -/

/-- R60, R185: a step of a host that may step runs the command its word decodes to, the word taken from the schedule. -/
def Obligations.StepRunsTheHostsCommand : Prop :=
  ∀ (s : State) (w : CommandWord) (rest : List Input) (i : Instr),
    s.hostMayStep = true → s.inputs = .command w :: rest → decodeCommand w = .ok i →
    step s = exec i { s with inputs := rest }

/-- R195, R201: a firing of a channel in force whose latch is clear, with no handler running, runs its callback at once; a firing that finds
the latch set is lost, whether a handler runs or not. -/
def Obligations.FiringRunsTheCallback : Prop :=
  ∀ (s : State) (ev : Byte) (rest : List Input) (c : Channel),
    s.inputs = .event ev :: rest → decodeEvent ev = some c → (s.chan c).en = true →
    ((s.chan c).pend = false → s.hctx = .none → step s = exec c.callback { s with inputs := rest }) ∧
    ((s.chan c).pend = true → step s = .next { s with inputs := rest })

/-- R185: while a handler runs or a render pass is in progress the host's word waits: the step takes nothing from the schedule and is
the step the block makes by itself. -/
def Obligations.HostWordWaitsForTheBlock : Prop :=
  ∀ (s : State) (w : CommandWord) (rest : List Input),
    s.inputs = .command w :: rest → (s.hctx = .refresh ∨ s.seqActive = true) →
    (∀ t, step s = .next t → t.inputs = s.inputs ∧ step { s with inputs := [] } = .next { t with inputs := [] }) ∧
    (∀ f, step s = .fault f ↔ step { s with inputs := [] } = .fault f) ∧
    (∀ r, step s = .refused r ↔ step { s with inputs := [] } = .refused r)

/-- R196: a firing during the refresh handler sets the pending latch and nothing else; set already, it stays set (R201). -/
def Obligations.FiringInTheHandlerIsLatched : Prop :=
  ∀ (s : State) (rest : List Input), s.hctx = .refresh →
    (s.inputs = .event 0x00 :: rest → s.chan0.en = true →
      step s = .next { s with inputs := rest, chan0 := { s.chan0 with pend := true } }) ∧
    (s.inputs = .event 0x01 :: rest → s.chan1.en = true →
      step s = .next { s with inputs := rest, chan1 := { s.chan1 with pend := true } })

/-- R164, R166: while a channel is not in force an elapsed period has no effect. The input itself is the model's (log 11). -/
def Obligations.FiringOutOfForceDoesNothing : Prop :=
  ∀ (s : State) (ev : Byte) (c : Channel) (rest : List Input),
    s.inputs = .event ev :: rest → decodeEvent ev = some c → (s.chan c).en = false →
    step s = .next { s with inputs := rest }

/-- R199, R197: with no handler running, a pending callback in force is dispatched, its latch cleared, before the host can step; with
both pending either may come first (which one is a free value, log 8). -/
def Obligations.PendingCallbackRunsBeforeTheHost : Prop :=
  ∀ s : State, s.hctx = .none → (s.inputs = [] ∨ ∃ w rest, s.inputs = .command w :: rest) →
    (s.due .ch0 = true → s.due .ch1 = false →
      step s = exec .tick { s with chan0 := { s.chan0 with pend := false } }) ∧
    (s.due .ch0 = false → s.due .ch1 = true →
      step s = exec .refresh { s with chan1 := { s.chan1 with pend := false } }) ∧
    (s.due .ch0 = true → s.due .ch1 = true →
      step s = exec .tick { s with chan0 := { s.chan0 with pend := false }, choice := s.choice + 1 } ∨
      step s = exec .refresh { s with chan1 := { s.chan1 with pend := false }, choice := s.choice + 1 })

/-- R220: the block does nothing until a command is given. -/
def Obligations.IdleBlockStaysAsItIs : Prop :=
  ∀ s : State, s.hostMayStep = true → s.inputs = [] → step s = .next s

/-- R27, R50: a change of level of `SW_N` changes that level and nothing else, whatever is in progress. -/
def Obligations.LineChangeIsOneTransition : Prop :=
  ∀ (s : State) (l : Level) (rest : List Input), s.inputs = .line l :: rest →
    step s = .next { s with swN := l, inputs := rest }

/-! ## Reset and the invariant -/

/-- R35: every piece of state after reset. -/
def Obligations.ResetLeavesTheTabledValues : Prop :=
  State.reset.wallTime = ⟨12, 0, 0, .am⟩ ∧ State.reset.blink = false ∧ State.reset.alarmTime = ⟨12, 0, 0, .am⟩ ∧
  State.reset.bright = true ∧ State.reset.pmode = .showTime ∧ State.reset.dmode = .numeric ∧
  (∀ i, Memory.read State.reset.text i = 0x00) ∧ State.reset.tlen = 0 ∧ State.reset.cursor = 0 ∧ State.reset.rot = 0 ∧
  State.reset.buzz = false ∧ State.reset.ringing = false ∧ State.reset.seg = 0x00 ∧ State.reset.pos = 0b00000 ∧
  State.reset.chan0 = ⟨false, false, 0, false⟩ ∧ State.reset.chan1 = ⟨false, false, 0, false⟩ ∧
  State.reset.hctx = .none ∧ State.reset.seqActive = false ∧ State.reset.seqCtx = .foreground ∧ State.reset.seqN = 0 ∧
  State.reset.seqRep = 0 ∧ State.reset.seqPos = .p1 ∧ State.reset.seqPhase = .drive ∧ State.reset.faultReg = 0 ∧
  State.reset.encout = 0x00

/-- R220: power-on puts every piece of state of the block at its reset value, from any state. What the environment holds (line, schedule,
trace, responses, choices) stays: the model's choice, log 19. Under another configuration the time records take its `RST.*` values (R221). -/
def Obligations.PowerOnResetsEverything : Prop :=
  ∀ (s : State) (rest : List Input), s.inputs = .powerOn :: rest →
    step s = .next { State.reset with
      swN := s.swN, inputs := rest, trace := s.trace, responses := s.responses, choice := s.choice } ∧
    ∀ cfg : Config, stepWith cfg s = .next { State.resetWith cfg.rst with
      swN := s.swN, inputs := rest, trace := s.trace, responses := s.responses, choice := s.choice }

/-- The invariant of Safety.lean holds at reset (R14, R115, R35), and at reset with any `RST.*` values (R3, R221). -/
def Obligations.ResetMeetsTheInvariant : Prop :=
  State.Inv State.reset ∧ ∀ r : ResetValues, State.Inv (State.resetWith r)

/-- R14, R26, R115: every step keeps the invariant, from every state that meets it, and so does every step under any configuration within
the constraints of R3. -/
def Obligations.StepKeepsTheInvariant : Prop :=
  (∀ s t : State, s.Inv → step s = .next t → t.Inv) ∧
  ∀ cfg : Config, LegalConfig cfg → ∀ s t : State, s.Inv → stepWith cfg s = .next t → t.Inv

/-- R190, R149, X2: from a state that meets the invariant no step stops, under whatever configuration, but for an event code that does not
occur (X3). -/
def Obligations.StepNeverStops : Prop :=
  ∀ s : State, s.Inv → (∀ ev rest, s.inputs = .event ev :: rest → ev.toNat ≤ 1) →
    (∃ t, step s = .next t) ∧ ∀ cfg : Config, ∃ t, stepWith cfg s = .next t

/-- R115: after any step all outputs are blank outside the dwell of a slot, and within it exactly the slot's line is selected. -/
def Obligations.OutputsBlankOutsideTheDwell : Prop :=
  ∀ s t : State, s.Inv → step s = .next t →
    (¬ (t.seqActive = true ∧ t.seqPhase = .blank) → t.seg = 0x00 ∧ t.pos = 0b00000) ∧
    (t.seqActive = true ∧ t.seqPhase = .blank → t.pos = line t.seqPos)

/-- R25, R26, R115: `SEG` and `POS` are written only by the `Drive` and `BlankAll` micro-steps (and by reset): a step that changes one of
them is the sequencer's micro-step of phase DRIVE or BLANK, a pass being in progress. -/
def Obligations.OnlyTheSequencerDrivesTheOutputs : Prop :=
  ∀ s t : State, step s = .next t → ¬ PowerComing s → (t.seg ≠ s.seg ∨ t.pos ≠ s.pos) →
    s.seqActive = true ∧ (IsMicroStep s t .drive ∨ IsMicroStep s t .blank)

/-! ## Refusals -/

/-- R68, R191: a command that completes at once returns one response, either status `0x00`, or a code of R192 with nothing changed but
`FAULT`; only an admitted RENDER answers later. -/
def Obligations.CommandAnswersOrIsRefused : Prop :=
  ∀ (i : Instr) (s t : State), i.isCommand = true → exec i s = .next t →
    (∃ data : Byte, t.responses = s.responses ++ [(0x00 : Byte) ++ data]) ∨
    (∃ code : Byte, 1 ≤ code.toNat ∧ code.toNat ≤ 4 ∧ t = refusedWith code s) ∨
    (∃ n, i = .render n ∧ s.chan1.en = false ∧ t.responses = s.responses)

/-- R31: `FAULT` is 0 while no command has been refused since reset and then holds the code of the first refused one; no operation clears it,
only reset does. -/
def Obligations.FaultKeepsTheFirstCode : Prop :=
  ∀ s t : State, step s = .next t →
    (PowerComing s → t.faultReg = 0) ∧
    (¬ PowerComing s → s.faultReg ≠ 0 → t.faultReg = s.faultReg) ∧
    (¬ PowerComing s → s.faultReg = 0 → t.faultReg ≠ 0 → t.responses = s.responses ++ [t.faultReg ++ (0x00 : Byte)]) ∧
    (¬ PowerComing s → s.faultReg = 0 → ∀ code data : Byte,
      t.responses = s.responses ++ [code ++ data] → code ≠ 0 → t.faultReg = code)

/-- R192, R205: `BAD_OPERAND` is the answer exactly when an operand value is illegal, and it comes before the admission conditions. -/
def Obligations.BadOperandExactlyOnIllegalValues : Prop :=
  ∀ (i : Instr) (s : State),
    (operandsLegal i = false → exec i s = .next (refusedWith 0x02 s)) ∧
    (operandsLegal i = true → ∀ t, exec i s = .next t → t.responses ≠ s.responses ++ [(0x0200 : Half)])

/-! ## Segment Encoder -/

/-- R87: ENCD of 0 to 9 gives the entry of the digit table in `ENCOUT` and in the response, above 9 it is refused, and so is a word with `b`
not zero. -/
def Obligations.EncdGivesTheNumeral : Prop :=
  ∀ (s : State) (d : Byte),
    (d.toNat ≤ 9 → exec (.encd d) s =
      .next (answered (digitOf chip d.toNat) { s with encout := digitOf chip d.toNat })) ∧
    (9 < d.toNat → exec (.encd d) s = .next (refusedWith 0x02 s)) ∧
    (∀ b : Half, b ≠ 0 → decodeCommand (((0x01 : Byte) ++ d) ++ b) = .error .badOperand)

/-- R88: ENCC gives the entry of the character table, for every code; a word with `b` not zero is refused. -/
def Obligations.EnccGivesTheCharacter : Prop :=
  ∀ (s : State) (c : Byte),
    exec (.encc c) s = .next (answered (chip.char c) { s with encout := chip.char c }) ∧
    (∀ b : Half, b ≠ 0 → decodeCommand (((0x02 : Byte) ++ c) ++ b) = .error .badOperand)

/-- R89: ENCP 0 gives the colon, ENCP 1 the dot, any other selector is refused, and so is a word with `b` not zero. -/
def Obligations.EncpGivesTheGlyph : Prop :=
  ∀ (s : State) (g : Byte),
    (g = 0 → exec (.encp g) s = .next (answered chip.colon { s with encout := chip.colon })) ∧
    (g = 1 → exec (.encp g) s = .next (answered chip.dot { s with encout := chip.dot })) ∧
    (1 < g.toNat → exec (.encp g) s = .next (refusedWith 0x02 s)) ∧
    (∀ b : Half, b ≠ 0 → decodeCommand (((0x03 : Byte) ++ g) ++ b) = .error .badOperand)

/-- R82, R83, R84, R85, R86, R110, R35: the machine runs with the defaults of the spec (that it runs with the defaults is the model's choice,
log 5); case is folded and a code outside the accepted set is blank. R3, R10: its configuration is within the constraints of R3, and the
machine is the step relation at that configuration. -/
def Obligations.ChipHoldsTheDefaultTables : Prop :=
  (∀ d : Nat, d ≤ 9 → digitOf chip d = numerals.getD d 0) ∧ (∀ c : Byte, chip.char c = glyph c) ∧
  chip.colon = 0x03 ∧ chip.dot = 0x80 ∧ chip.colonNonShowtime = .blank ∧ State.reset = State.resetWith chip.rst ∧
  LegalConfig chip ∧ (∀ s : State, step s = stepWith chip s) ∧ ∀ (i : Instr) (s : State), exec i s = execWith chip i s

/-! ## Register and text access -/

/-- R180, R33: WR of a legal value writes that register and nothing else; every register number reads as before but this one. -/
def Obligations.WrWritesTheNamedRegister : Prop :=
  ∀ (s : State) (n lo hi : Nat) (v : Byte), (n, lo, hi) ∈ writable → lo ≤ v.toNat → v.toNat ≤ hi →
    ∃ t, exec (.wr (BitVec.ofNat 8 n) v) s = .next t ∧
      t.responses = s.responses ++ [0x0000] ∧ SameUnnumbered s t ∧
      ∀ r : Byte, r.toNat ≤ 0x17 → register t r = if r.toNat = n then v else register s r

/-- R180, R33: WR of an unassigned number, of a read-only register or of a value outside the legal range is refused. -/
def Obligations.WrRefusesEverythingElse : Prop :=
  ∀ (s : State) (r v : Byte),
    (∀ n lo hi : Nat, (n, lo, hi) ∈ writable → r.toNat = n → ¬ (lo ≤ v.toNat ∧ v.toNat ≤ hi)) →
    exec (.wr r v) s = .next (refusedWith 0x02 s)

/-- R181, R49: RD returns the register zero-extended and has no side effect; an unassigned number is refused, and so is `b` not zero; where
the host can step, SEG and POS read 0 and bit 2 of TSTAT0, TSTAT1 is clear. -/
def Obligations.RdReturnsTheRegister : Prop :=
  ∀ (s : State) (r : Byte),
    (r.toNat ≤ 0x17 → exec (.rd r) s = .next (answered (register s r) s)) ∧
    (0x17 < r.toNat → exec (.rd r) s = .next (refusedWith 0x02 s)) ∧
    (∀ b : Half, b ≠ 0 → decodeCommand (((0x31 : Byte) ++ r) ++ b) = .error .badOperand) ∧
    (s.Inv → s.hostMayStep = true →
      register s 0x12 = 0 ∧ register s 0x13 = 0 ∧ (register s 0x14).toNat < 4 ∧ (register s 0x15).toNat < 4)

/-- R182: WRT stores the character at its index; every other index reads as before, nothing else changes, and the buffer keeps its form. -/
def Obligations.WrtStoresOneCharacter : Prop :=
  ∀ (s : State) (i c : Byte),
    (i.toNat < 64 → Memory.wf s.text = true →
      ∃ m, exec (.wrt i c) s = .next (answered 0x00 { s with text := m }) ∧ Memory.wf m = true ∧
        ∀ j, Memory.read m j = if j = i.toNat then c else Memory.read s.text j) ∧
    (64 ≤ i.toNat → exec (.wrt i c) s = .next (refusedWith 0x02 s)) ∧
    (∀ v : Byte, v ≠ 0 → decodeCommand (((0x32 : Byte) ++ i) ++ (v ++ c)) = .error .badOperand)

/-- R183, R49: RDT returns the element and has no side effect; an index from 64 on is refused, and so is `b` not zero. -/
def Obligations.RdtReturnsTheCharacter : Prop :=
  ∀ (s : State) (i : Byte),
    (i.toNat < 64 → exec (.rdt i) s = .next (answered (Memory.read s.text i.toNat) s)) ∧
    (64 ≤ i.toNat → exec (.rdt i) s = .next (refusedWith 0x02 s)) ∧
    (∀ b : Half, b ≠ 0 → decodeCommand (((0x33 : Byte) ++ i) ++ b) = .error .badOperand)

/-- R184: REGEN puts the string of WallClock into the buffer, `0x00` after its end, sets `TLEN` and resets `CURSOR`; `ROT` and all else
stay; a word with `a` or `b` not zero is refused. The words are `CFG.SPEAK`'s (free, log 4). -/
def Obligations.RegenRewritesTheText : Prop :=
  (∀ s : State, ∃ m,
    exec .regen s = .next (answered 0x00
      { s with text := m, tlen := BitVec.ofNat 8 (chip.speak s.hours s.minutes s.meridiem).length, cursor := 0 }) ∧
    Memory.wf m = true ∧ (chip.speak s.hours s.minutes s.meridiem).length ≤ 64 ∧
    ∀ j, Memory.read m j = (chip.speak s.hours s.minutes s.meridiem).getD j 0x00) ∧
  (∀ (a : Byte) (b : Half), (a ≠ 0 ∨ b ≠ 0) → decodeCommand (((0x40 : Byte) ++ a) ++ b) = .error .badOperand)

/-! ## Timer channels -/

/-- R161: TREG registers a channel, puts it in force and clears its latch; the other channel is left alone (R160). -/
def Obligations.TregRegistersTheChannel : Prop :=
  ∀ (s : State) (ms : Half),
    (ms = 1000 → exec (.treg 0 ms) s =
      .next (answered 0x00 { s with chan0 := { reg := true, en := true, period := ms, pend := false } })) ∧
    (ms ≠ 1000 → exec (.treg 0 ms) s = .next (refusedWith 0x02 s)) ∧
    (ms ≠ 0 → exec (.treg 1 ms) s =
      .next (answered 0x00 { s with chan1 := { reg := true, en := true, period := ms, pend := false } })) ∧
    (ms = 0 → exec (.treg 1 ms) s = .next (refusedWith 0x02 s)) ∧
    (∀ ch : Byte, 1 < ch.toNat → exec (.treg ch ms) s = .next (refusedWith 0x02 s))

/-- R162: TREV revokes a registered channel's callback and clears its latch; the period and the registration stay. -/
def Obligations.TrevRevokesTheChannel : Prop :=
  ∀ s : State,
    (s.chan0.reg = true → exec (.trev 0) s =
      .next (answered 0x00 { s with chan0 := { s.chan0 with en := false, pend := false } })) ∧
    (s.chan0.reg = false → exec (.trev 0) s = .next (refusedWith 0x04 s)) ∧
    (s.chan1.reg = true → exec (.trev 1) s =
      .next (answered 0x00 { s with chan1 := { s.chan1 with en := false, pend := false } })) ∧
    (s.chan1.reg = false → exec (.trev 1) s = .next (refusedWith 0x04 s)) ∧
    (∀ ch : Byte, 1 < ch.toNat → exec (.trev ch) s = .next (refusedWith 0x02 s)) ∧
    (∀ (ch : Byte) (b : Half), b ≠ 0 → decodeCommand (((0x21 : Byte) ++ ch) ++ b) = .error .badOperand)

/-- R163: TRST puts a registered channel's callback in force again, the period being the one of the last TREG. -/
def Obligations.TrstReinstatesTheChannel : Prop :=
  ∀ s : State,
    (s.chan0.reg = true → exec (.trst 0) s = .next (answered 0x00 { s with chan0 := { s.chan0 with en := true } })) ∧
    (s.chan0.reg = false → exec (.trst 0) s = .next (refusedWith 0x04 s)) ∧
    (s.chan1.reg = true → exec (.trst 1) s = .next (answered 0x00 { s with chan1 := { s.chan1 with en := true } })) ∧
    (s.chan1.reg = false → exec (.trst 1) s = .next (refusedWith 0x04 s)) ∧
    (∀ ch : Byte, 1 < ch.toNat → exec (.trst ch) s = .next (refusedWith 0x02 s)) ∧
    (∀ (ch : Byte) (b : Half), b ≠ 0 → decodeCommand (((0x22 : Byte) ++ ch) ++ b) = .error .badOperand)

/-- R34, R165: registration, period and in-force bit of a channel change only by TREG, TREV, TRST (and reset). -/
def Obligations.OnlyTimerCommandsChangeAChannel : Prop :=
  ∀ (s t : State) (c : Channel), step s = .next t → ¬ PowerComing s →
    ((t.chan c).reg ≠ (s.chan c).reg ∨ (t.chan c).en ≠ (s.chan c).en ∨ (t.chan c).period ≠ (s.chan c).period) →
    ∃ ch ms, HostGives s (.treg ch ms) ∨ HostGives s (.trev ch) ∨ HostGives s (.trst ch)

/-- R34: AlarmTime, `PMODE`, `DMODE` and `RINGING` change only by WR (and reset). -/
def Obligations.OnlyWrChangesTheHostsRegisters : Prop :=
  ∀ s t : State, step s = .next t → ¬ PowerComing s →
    (t.alarmTime ≠ s.alarmTime ∨ t.pmode ≠ s.pmode ∨ t.dmode ≠ s.dmode ∨ t.ringing ≠ s.ringing) →
    ∃ r v, HostGives s (.wr r v)

/-! ## Display Multiplexer -/

/-- R102: RENDER is refused while channel 1 is in force and admitted otherwise; a word with `a` not zero is refused (R100). Where the host may
step no handler runs and no pass is in progress, and while a pass is in progress the host is blocked. -/
def Obligations.RenderIsAdmittedOrRefused : Prop :=
  ∀ (s : State) (n : Half),
    (s.chan1.en = true → exec (.render n) s = .next (refusedWith 0x03 s)) ∧
    (s.chan1.en = false → exec (.render n) s =
      .next { s with
        seqActive := true, seqCtx := .foreground, seqN := n, seqRep := 0, seqPos := .p1, seqPhase := .drive }) ∧
    (s.hostMayStep = true → s.hctx = .none ∧ s.seqActive = false) ∧
    (∀ u : State, u.seqActive = true → u.hostMayStep = false) ∧
    (∀ a : Byte, a ≠ 0 → decodeCommand (((0x10 : Byte) ++ a) ++ n) = .error .badOperand)

/-- R120: REFRESH enters the handler context and starts a pass of `REFRESH_TIME_ON` cycles; it is never refused. -/
def Obligations.RefreshEntersTheHandler : Prop :=
  ∀ s : State, exec .refresh s =
    .next { s with
      hctx := .refresh, seqActive := true, seqCtx := .refresh, seqN := chip.refreshTimeOn, seqRep := 0
      seqPos := .p1, seqPhase := .drive }

/-- R106 to R110, R36: the five patterns of Numeric mode, for every configuration and every legal record shown. -/
def Obligations.NumericSlotsShowTheTime : Prop :=
  ∀ (cfg : Config) (s : State) (p : Position), s.dmode = .numeric → ClockLegal (shown s) →
    slotPattern cfg s p = .ok (numericSlot cfg s p)

/-- R112, R113: the five patterns of ScrollingText mode, for every configuration and every legal `TLEN`. -/
def Obligations.TextSlotsShowTheWindow : Prop :=
  ∀ (cfg : Config) (s : State) (p : Position), s.dmode = .scrollingText → s.tlen.toNat ≤ 64 →
    slotPattern cfg s p = .ok (textSlot cfg s p)

/-- R103 DRIVE, R104, R105: the slot is selected with its pattern and the dwell of the brightness in force; with no cycle left the pass goes on
to SCROLL. -/
def Obligations.DriveStepDrivesTheSlot : Prop :=
  ∀ s : State, s.Inv → SequencerTurn s → s.seqPhase = .drive →
    (s.seqRep = s.seqN → step s = .next { s with seqPhase := .scroll }) ∧
    (s.seqRep ≠ s.seqN → step s = .next { s with
      seg := slot chip s s.seqPos, pos := line s.seqPos
      trace := s.trace ++ [.drive s.seqPos (slot chip s s.seqPos) (dwellOf chip s)], seqPhase := .blank })

/-- R103 BLANK, R104: all outputs are blanked after every position, the fifth too. -/
def Obligations.BlankStepBlanksTheOutputs : Prop :=
  ∀ s : State, SequencerTurn s → s.seqPhase = .blank →
    ∃ p ph, step s = .next { s with
        seg := 0x00, pos := 0b00000, trace := s.trace ++ [.blank chip.tBlank], seqPos := p, seqPhase := ph } ∧
      (s.seqPos = .p1 → p = .p2 ∧ ph = .drive) ∧ (s.seqPos = .p2 → p = .p3 ∧ ph = .drive) ∧
      (s.seqPos = .p3 → p = .p4 ∧ ph = .drive) ∧ (s.seqPos = .p4 → p = .p5 ∧ ph = .drive) ∧
      (s.seqPos = .p5 → p = .p5 ∧ ph = .sirenChk)

/-- R118: at SIRENCHK the siren is called when the switch is engaged, the alarm rings and `BUZZ` is 1; SIRENCLR then clears `BUZZ`. -/
def Obligations.SirenIsCalledAndThePulseCleared : Prop :=
  ∀ s : State, SequencerTurn s →
    (s.seqPhase = .sirenChk → s.swN = .low → s.ringing = true → s.buzz = true →
      step s = .next { s with trace := s.trace ++ [.siren], seqPhase := .sirenClr }) ∧
    (s.seqPhase = .sirenChk → (s.swN = .high ∨ s.ringing = false ∨ s.buzz = false) →
      step s = .next { s with seqRep := s.seqRep + 1, seqPos := .p1, seqPhase := .drive }) ∧
    (s.seqPhase = .sirenClr →
      step s = .next { s with buzz := false, seqRep := s.seqRep + 1, seqPos := .p1, seqPhase := .drive })

/-- R116, R117, R121: the last micro-step scrolls in ScrollingText mode and completes the pass: a foreground pass returns its response, a
refresh pass returns from the handler. -/
def Obligations.ScrollStepEndsThePass : Prop :=
  ∀ s : State, s.Inv → SequencerTurn s → s.seqPhase = .scroll →
    (s.seqCtx = .foreground → step s = .next (answered 0x00 { scrolled s with seqActive := false })) ∧
    (s.seqCtx = .refresh → step s = .next { scrolled s with seqActive := false, hctx := .none })

/-- R121: a pass always completes: left to itself, within 12 micro-steps for each cycle left and 2 more. -/
def Obligations.EveryPassCompletes : Prop :=
  ∀ s : State, s.Inv → s.seqActive = true → s.inputs = [] →
    ∃ k t, k ≤ 12 * (s.seqN.toNat - s.seqRep.toNat) + 2 ∧ Host.Core.run core k s = .next t ∧ t.seqActive = false ∧
      t.hctx = .none ∧
      (s.seqCtx = .foreground → t.responses = s.responses ++ [0x0000]) ∧
      (s.seqCtx = .refresh → t.responses = s.responses)

/-- R100, R104, R116, R122, R123: RENDER n with nothing changing meanwhile and no siren due drives n equal digit cycles, takes n times five slots,
answers, and changes no register but, in ScrollingText mode, `ROT` and `CURSOR`. -/
def Obligations.RenderDrivesItsCycles : Prop :=
  ∀ (s : State) (n : Half), s.Inv → s.hostMayStep = true → s.inputs = [] → s.chan1.en = false →
    (s.swN = .high ∨ s.ringing = false ∨ s.buzz = false) →
    ∃ u k t, exec (.render n) s = .next u ∧ Host.Core.run core k u = .next t ∧
      t = { scrolled s with
        trace := s.trace ++ cycles s n.toNat, responses := s.responses ++ [0x0000]
        seqCtx := .foreground, seqN := n, seqRep := n, seqPos := .p1, seqPhase := .scroll } ∧
      traceDuration chip (cycles s n.toNat) = n.toNat * 5 * (dwellOf chip s + chip.tBlank)

/-- R118, R119 (a): with the siren due, a pass of n + 1 cycles calls it once, after the first cycle, and leaves `BUZZ` 0. -/
def Obligations.SirenSoundsOncePerPulse : Prop :=
  ∀ (s : State) (n : Half), s.Inv → s.hostMayStep = true → s.inputs = [] → s.chan1.en = false →
    s.swN = .low → s.ringing = true → s.buzz = true → n ≠ 0 →
    ∃ u k t, exec (.render n) s = .next u ∧ Host.Core.run core k u = .next t ∧ t.seqActive = false ∧
      t.buzz = false ∧ t.trace = s.trace ++ cycle s ++ [.siren] ++ cycles s (n.toNat - 1)

/-- R52: during the refresh handler a step changes none of the registers the pass reads but `BUZZ`, `ROT`, `CURSOR` and the level of `SW_N`; a
firing sets a latch only. -/
def Obligations.HandlerSeesConstantRegisters : Prop :=
  ∀ s t : State, s.Inv → s.hctx = .refresh → ¬ PowerComing s → step s = .next t →
    t = { s with
      buzz := t.buzz, rot := t.rot, cursor := t.cursor, seg := t.seg, pos := t.pos, hctx := t.hctx
      seqActive := t.seqActive, seqRep := t.seqRep, seqPos := t.seqPos, seqPhase := t.seqPhase
      chan0 := { s.chan0 with pend := t.chan0.pend }, chan1 := { s.chan1 with pend := t.chan1.pend }
      swN := t.swN, inputs := t.inputs, trace := t.trace }

/-- R53: during a foreground pass channel 1 does not fire, the host gives no command, and what the pass reads changes only by a TICK, by the
pass's own writes and by a change of the line: the records, the flags and the text by a TICK alone, `BUZZ` by a TICK or at SIRENCLR,
`CURSOR` by a TICK or at SCROLL, `ROT` at SCROLL, the line by a level input. -/
def Obligations.ForegroundPassSeesOnlyTicks : Prop :=
  ∀ s t : State, s.Inv → s.seqActive = true → s.seqCtx = .foreground → ¬ PowerComing s → step s = .next t →
    t.hctx = .none ∧ t.chan0 = s.chan0 ∧ t.chan1 = s.chan1 ∧ t.alarmTime = s.alarmTime ∧ t.pmode = s.pmode ∧
    t.dmode = s.dmode ∧ t.ringing = s.ringing ∧ t.faultReg = s.faultReg ∧ t.encout = s.encout ∧
    ((t.wallTime ≠ s.wallTime ∨ t.blink ≠ s.blink ∨ t.bright ≠ s.bright ∨ t.text ≠ s.text ∨ t.tlen ≠ s.tlen) →
      IsTick s t) ∧
    (t.buzz ≠ s.buzz → IsTick s t ∨ IsMicroStep s t .sirenClr) ∧
    (t.cursor ≠ s.cursor → IsTick s t ∨ IsMicroStep s t .scroll) ∧
    (t.rot ≠ s.rot → IsMicroStep s t .scroll) ∧
    (t.swN ≠ s.swN → ∃ l rest, s.inputs = .line l :: rest ∧ t = { s with swN := l, inputs := rest })

/-! ## TICK -/

/-- R141, R142: the cascade of one second, the hour wrap and the meridiem flip, from every legal WallClock. -/
def Obligations.TickAdvancesOneSecond : Prop :=
  ∀ s : State, ClockLegal s.wallTime → ∃ t, exec .tick s = .next t ∧
    t.seconds.toNat = (if s.seconds.toNat = 59 then 0 else s.seconds.toNat + 1) ∧
    t.minutes.toNat =
      (if s.seconds.toNat = 59 then (if s.minutes.toNat = 59 then 0 else s.minutes.toNat + 1) else s.minutes.toNat) ∧
    t.hours.toNat =
      (if s.seconds.toNat = 59 ∧ s.minutes.toNat = 59 then (if s.hours.toNat = 12 then 1 else s.hours.toNat + 1)
       else s.hours.toNat) ∧
    (t.meridiem ≠ s.meridiem ↔ s.seconds.toNat = 59 ∧ s.minutes.toNat = 59 ∧ s.hours.toNat = 11)

/-- R143, R145, R146, R147: the flags after a tick; `BRIGHT` by the hour and meridiem after the cascade, frozen in SetTime. R34, R140: a tick
writes WallClock, the text and its length, `CURSOR`, `BRIGHT` and `BUZZ`, and nothing else. -/
def Obligations.TickSetsItsFlags : Prop :=
  ∀ s : State, ClockLegal s.wallTime → ∃ t, exec .tick s = .next t ∧
    t.blink = !s.blink ∧ t.buzz = true ∧
    (s.pmode = .setTime → t.bright = s.bright) ∧
    (s.pmode ≠ .setTime → (t.bright = false ↔ IsDim t.hours.toNat t.meridiem)) ∧
    t = { s with
      hours := t.hours, minutes := t.minutes, seconds := t.seconds, meridiem := t.meridiem, blink := t.blink
      bright := t.bright, text := t.text, tlen := t.tlen, cursor := t.cursor, buzz := t.buzz }

/-- R144: on a change of the minute the text is regenerated from the new time, `0x00` after its end, and `CURSOR` is reset; on any other tick text,
`TLEN` and `CURSOR` stay; `ROT` is never written. -/
def Obligations.TickRegeneratesOnTheMinute : Prop :=
  ∀ s : State, ClockLegal s.wallTime → ∃ t, exec .tick s = .next t ∧
    (s.seconds.toNat = 59 →
      t.cursor = 0 ∧ t.tlen.toNat = (chip.speak t.hours t.minutes t.meridiem).length ∧ Memory.wf t.text = true ∧
      ∀ j, Memory.read t.text j = (chip.speak t.hours t.minutes t.meridiem).getD j 0x00) ∧
    (s.seconds.toNat ≠ 59 → t.cursor = s.cursor ∧ t.tlen = s.tlen ∧ t.text = s.text) ∧ t.rot = s.rot

/-- R150 (a): 86,400 ticks return WallClock and `BLINK` to where they were, from every legal state. -/
def Obligations.FullDayRoundTrip : Prop :=
  ∀ s : State, ClockLegal s.wallTime →
    ∃ t, ticks 86400 s = .next t ∧ t.wallTime = s.wallTime ∧ t.blink = s.blink

/-- R150 (a): the 86,400 legal times lie on one cycle: each is reached from each in fewer than 86,400 ticks. -/
def Obligations.LegalTimesFormOneCycle : Prop :=
  ∀ a b : TimeOfDay, ClockLegal a → ClockLegal b → ∃ n, n < 86400 ∧ cascades n a = b

/-- R150 (c): over a day the meridiem flips exactly twice, from whatever legal time the day is counted. -/
def Obligations.MeridiemFlipsTwiceADay : Prop :=
  ∀ a : TimeOfDay, ClockLegal a →
    ((List.range 86400).filter fun n => (cascades (n + 1) a).meridiem ≠ (cascades n a).meridiem).length = 2

/-- R150 (b): a tick changes `BRIGHT` only if it changes `HOURS`, provided `BRIGHT` had the rule's value and `PMODE` is not SetTime. -/
def Obligations.BrightnessChangesOnTheHour : Prop :=
  ∀ s t : State, ClockLegal s.wallTime → s.pmode ≠ .setTime → (s.bright = false ↔ IsDim s.hours.toNat s.meridiem) →
    exec .tick s = .next t → t.bright ≠ s.bright → t.hours ≠ s.hours
end

