-- ==== Sys2Proof/Laws/Codec.lean ====
section
/-! SUPPORT. The fields of a command word, as numbers: what the encoder lays down the decoder's fields read back, and a word
is its three fields (R60). -/

namespace Sys2Proof

/-- A concatenation as a number. -/
theorem toNat_append_eq {n m : Nat} (x : BitVec n) (y : BitVec m) : (x ++ y).toNat = x.toNat * 2 ^ m + y.toNat := by
  rw [BitVec.toNat_append, ← Nat.shiftLeft_add_eq_or_of_lt y.isLt, Nat.shiftLeft_eq]

theorem commandWord_toNat (op a : Byte) (b : Half) :
    (commandWord op a b).toNat = op.toNat * 2 ^ 24 + a.toNat * 2 ^ 16 + b.toNat := by
  have h : (commandWord op a b).toNat = ((op ++ a) ++ b).toNat := rfl
  rw [h, toNat_append_eq, toNat_append_eq]
  omega

theorem fieldOp_toNat (w : CommandWord) : (fieldOp w).toNat = w.toNat / 2 ^ 24 := by
  have := w.isLt
  simp only [fieldOp, BitVec.extractLsb'_toNat, Nat.shiftRight_eq_div_pow]
  omega

theorem fieldA_toNat (w : CommandWord) : (fieldA w).toNat = w.toNat / 2 ^ 16 % 2 ^ 8 := by
  simp only [fieldA, BitVec.extractLsb'_toNat, Nat.shiftRight_eq_div_pow]

theorem fieldB_toNat (w : CommandWord) : (fieldB w).toNat = w.toNat % 2 ^ 16 := by
  simp only [fieldB, BitVec.extractLsb'_toNat, Nat.shiftRight_zero]

theorem fieldV_toNat (w : CommandWord) : (fieldV w).toNat = w.toNat % 2 ^ 8 := by
  simp only [fieldV, BitVec.extractLsb'_toNat, Nat.shiftRight_zero]

theorem fieldBHigh_toNat (w : CommandWord) : (fieldBHigh w).toNat = w.toNat / 2 ^ 8 % 2 ^ 8 := by
  simp only [fieldBHigh, BitVec.extractLsb'_toNat, Nat.shiftRight_eq_div_pow]

@[simp] theorem fieldOp_commandWord (op a : Byte) (b : Half) : fieldOp (commandWord op a b) = op := by
  apply BitVec.eq_of_toNat_eq
  have := op.isLt; have := a.isLt; have := b.isLt
  rw [fieldOp_toNat, commandWord_toNat]
  omega

@[simp] theorem fieldA_commandWord (op a : Byte) (b : Half) : fieldA (commandWord op a b) = a := by
  apply BitVec.eq_of_toNat_eq
  have := op.isLt; have := a.isLt; have := b.isLt
  rw [fieldA_toNat, commandWord_toNat]
  omega

@[simp] theorem fieldB_commandWord (op a : Byte) (b : Half) : fieldB (commandWord op a b) = b := by
  apply BitVec.eq_of_toNat_eq
  have := op.isLt; have := a.isLt; have := b.isLt
  rw [fieldB_toNat, commandWord_toNat]
  omega

/-- A word is its three fields. -/
theorem commandWord_fields (w : CommandWord) : commandWord (fieldOp w) (fieldA w) (fieldB w) = w := by
  apply BitVec.eq_of_toNat_eq
  have := w.isLt
  rw [commandWord_toNat, fieldOp_toNat, fieldA_toNat, fieldB_toNat]
  omega

/-- `b` in two halves: the value and the must-be-zero byte above it (R61). -/
theorem fieldB_halves (w : CommandWord) : fieldB w = fieldBHigh w ++ fieldV w := by
  apply BitVec.eq_of_toNat_eq
  have h : (fieldBHigh w ++ fieldV w).toNat = _ := toNat_append_eq _ _
  rw [fieldB_toNat, h, fieldBHigh_toNat, fieldV_toNat]
  omega

@[simp] theorem fieldV_value (op a v : Byte) : fieldV (commandWord op a (valueOperand v)) = v := by
  apply BitVec.eq_of_toNat_eq
  have h : (valueOperand v).toNat = (0 : Byte).toNat * 2 ^ 8 + v.toNat := toNat_append_eq _ _
  have := v.isLt
  rw [fieldV_toNat, commandWord_toNat, h]
  simp
  omega

@[simp] theorem fieldBHigh_value (op a v : Byte) : fieldBHigh (commandWord op a (valueOperand v)) = 0 := by
  apply BitVec.eq_of_toNat_eq
  have h : (valueOperand v).toNat = (0 : Byte).toNat * 2 ^ 8 + v.toNat := toNat_append_eq _ _
  have := v.isLt
  rw [fieldBHigh_toNat, commandWord_toNat, h]
  simp
  omega

end Sys2Proof
end

