-- ==== Sys2Proof/Laws/Memory.lean ====
section
/-! SUPPORT. The text buffer: a write is read back and leaves every other index, every operation keeps the canonical form, and
buffers in that form that read alike are equal. -/

namespace Sys2Proof.Machine

@[simp] theorem Memory.read_nil (a : Nat) : Memory.read [] a = unlistedByte := rfl

theorem Memory.wfFrom_cons {lo k : Nat} {b : Byte} {m : Memory} :
    Memory.wfFrom lo ((k, b) :: m) = true ↔
      lo ≤ k ∧ k < textMax ∧ b ≠ unlistedByte ∧ Memory.wfFrom (k + 1) m = true := by
  simp [Memory.wfFrom, and_assoc]

theorem Memory.wfFrom_mono {lo lo' : Nat} {m : Memory} (hl : lo' ≤ lo) (h : Memory.wfFrom lo m = true) :
    Memory.wfFrom lo' m = true := by
  cases m with
  | nil => rfl
  | cons e m =>
    obtain ⟨k, b⟩ := e
    rw [wfFrom_cons] at h ⊢
    exact ⟨hl.trans h.1, h.2⟩

/-- Below its first index a buffer in canonical form lists nothing. -/
theorem Memory.read_below {lo a : Nat} {m : Memory} (h : Memory.wfFrom lo m = true) (ha : a < lo) :
    Memory.read m a = unlistedByte := by
  induction m generalizing lo with
  | nil => rfl
  | cons e m ih =>
    obtain ⟨k, b⟩ := e
    rw [wfFrom_cons] at h
    simp only [read, if_neg (show a ≠ k by omega)]
    exact ih h.2.2.2 (by omega)

/-- From `TEXT_MAX` on a buffer in canonical form lists nothing. -/
theorem Memory.read_beyond {lo a : Nat} {m : Memory} (h : Memory.wfFrom lo m = true) (ha : textMax ≤ a) :
    Memory.read m a = unlistedByte := by
  induction m generalizing lo with
  | nil => rfl
  | cons e m ih =>
    obtain ⟨k, b⟩ := e
    rw [wfFrom_cons] at h
    simp only [read, if_neg (show a ≠ k by omega)]
    exact ih h.2.2.2

/-- R182: a written element reads back, every other as before. -/
theorem Memory.read_write {lo : Nat} {m : Memory} (h : Memory.wfFrom lo m = true) (a : Nat) (v : Byte) (j : Nat) :
    Memory.read (Memory.write m a v) j = if j = a then v else Memory.read m j := by
  induction m generalizing lo with
  | nil => by_cases hv : v = unlistedByte <;> simp [write, hv, read]
  | cons e m ih =>
    obtain ⟨k, b⟩ := e
    rw [wfFrom_cons] at h
    have hb : ∀ {a}, a < k + 1 → read m a = unlistedByte := fun ha => read_below h.2.2.2 ha
    have ih' := ih h.2.2.2
    rcases Nat.lt_trichotomy a k with hak | rfl | hak
    · by_cases hv : v = unlistedByte
      · by_cases hj : j = a
        · simp [write, hak, hv, hj, read, show a ≠ k by omega, hb (show a < k + 1 by omega)]
        · simp [write, hak, hv, hj]
      · simp [write, hak, hv, read]
    · by_cases hv : v = unlistedByte
      · by_cases hj : j = a
        · simp [write, hv, hj, hb (Nat.lt_succ_self a)]
        · simp [write, hv, hj, read]
      · by_cases hj : j = a <;> simp [write, hv, hj, read]
    · by_cases hj : j = k
      · simp [write, show ¬ a < k by omega, show a ≠ k by omega, hj, read, show k ≠ a by omega]
      · simp [write, show ¬ a < k by omega, show a ≠ k by omega, hj, read, ih']

/-- A write keeps the canonical form. -/
theorem Memory.wfFrom_write {lo a : Nat} {m : Memory} (h : Memory.wfFrom lo m = true) (hl : lo ≤ a) (ha : a < textMax)
    (v : Byte) : Memory.wfFrom lo (Memory.write m a v) = true := by
  induction m generalizing lo with
  | nil =>
    by_cases hv : v = unlistedByte
    · simp [write, hv, wfFrom]
    · rw [write, if_neg hv, wfFrom_cons]
      exact ⟨hl, ha, hv, rfl⟩
  | cons e m ih =>
    obtain ⟨k, b⟩ := e
    have h' := wfFrom_cons.1 h
    simp only [write]
    split_ifs with h1 h2 h3 h4
    · exact h
    · exact wfFrom_cons.2 ⟨hl, ha, h2, wfFrom_cons.2 ⟨h1, h'.2⟩⟩
    · exact wfFrom_mono (by omega) h'.2.2.2
    · exact wfFrom_cons.2 ⟨hl, ha, h4, h3 ▸ h'.2.2.2⟩
    · exact wfFrom_cons.2 ⟨h'.1, h'.2.1, h'.2.2.1, ih h'.2.2.2 (by omega)⟩

theorem Memory.wf_write {a : Nat} {m : Memory} (h : Memory.wf m = true) (ha : a < textMax) (v : Byte) :
    Memory.wf (Memory.write m a v) = true := wfFrom_write h (Nat.zero_le a) ha v

/-- A string that fits leaves the buffer in canonical form. -/
theorem Memory.wfFrom_ofString {base : Nat} {cs : List Byte} (h : base + cs.length ≤ textMax) :
    Memory.wfFrom base (Memory.ofString base cs) = true := by
  induction cs generalizing base with
  | nil => rfl
  | cons c cs ih =>
    rw [List.length_cons] at h
    simp only [ofString]
    split_ifs with hc
    · exact wfFrom_mono (Nat.le_succ base) (ih (by omega))
    · exact wfFrom_cons.2 ⟨le_rfl, by omega, hc, ih (by omega)⟩

theorem Memory.wf_ofString {cs : List Byte} (h : cs.length ≤ textMax) : Memory.wf (Memory.ofString 0 cs) = true :=
  wfFrom_ofString (by omega)

/-- R45, R144: a string laid down reads character by character, `0x00` after its end. -/
theorem Memory.read_ofString (base : Nat) (cs : List Byte) (j : Nat) :
    Memory.read (Memory.ofString base cs) j = if base ≤ j then cs.getD (j - base) unlistedByte else unlistedByte := by
  induction cs generalizing base with
  | nil => simp [ofString]
  | cons c cs ih =>
    rcases Nat.lt_trichotomy j base with hj | rfl | hj
    · rw [if_neg (by omega)]
      by_cases hc : c = unlistedByte <;> simp [ofString, hc, read, ih, show ¬ base + 1 ≤ j by omega, show j ≠ base by omega]
    · rw [if_pos le_rfl]
      by_cases hc : c = unlistedByte <;> simp [ofString, hc, read, ih]
    · rw [if_pos (by omega), show j - base = (j - (base + 1)) + 1 by omega]
      by_cases hc : c = unlistedByte <;> simp [ofString, hc, read, ih, show base + 1 ≤ j by omega, show j ≠ base by omega]

/-- Equal buffers are equal data. -/
theorem Memory.ext_of_wfFrom {lo lo' : Nat} {m m' : Memory} (h : Memory.wfFrom lo m = true)
    (h' : Memory.wfFrom lo' m' = true) (hr : ∀ j, Memory.read m j = Memory.read m' j) : m = m' := by
  induction m generalizing lo lo' m' with
  | nil =>
    cases m' with
    | nil => rfl
    | cons e m' =>
      obtain ⟨k, b⟩ := e
      have := hr k
      simp only [read, if_true] at this
      exact absurd this.symm (wfFrom_cons.1 h').2.2.1
  | cons e m ih =>
    obtain ⟨k, b⟩ := e
    have hk := wfFrom_cons.1 h
    cases m' with
    | nil =>
      have := hr k
      simp only [read, if_true] at this
      exact absurd this hk.2.2.1
    | cons e' m' =>
      obtain ⟨k', b'⟩ := e'
      have hk' := wfFrom_cons.1 h'
      have hkk : k = k' := by
        rcases Nat.lt_trichotomy k k' with hlt | heq | hlt
        · have := hr k
          simp only [read, if_true, if_neg (show k ≠ k' by omega)] at this
          exact absurd (this.trans (read_below hk'.2.2.2 (by omega))) hk.2.2.1
        · exact heq
        · have := hr k'
          simp only [read, if_true, if_neg (show k' ≠ k by omega)] at this
          exact absurd (this.symm.trans (read_below hk.2.2.2 (by omega))) hk'.2.2.1
      subst hkk
      have hb : b = b' := by simpa [read] using hr k
      subst hb
      congr 1
      refine ih hk.2.2.2 hk'.2.2.2 fun j => ?_
      by_cases hj : j = k
      · subst hj
        rw [read_below hk.2.2.2 (by omega), read_below hk'.2.2.2 (by omega)]
      · simpa [read, hj] using hr j

theorem Memory.ext {m m' : Memory} (h : Memory.wf m = true) (h' : Memory.wf m' = true)
    (hr : ∀ j, Memory.read m j = Memory.read m' j) : m = m' := ext_of_wfFrom h h' hr

/-- The buffer a regeneration leaves is in canonical form. -/
theorem regenerate_wf (cfg : Config) (s : State) (h : (cfg.speak s.hours s.minutes s.meridiem).length ≤ textMax) :
    Memory.wf (regenerate cfg s).text = true := Memory.wf_ofString h

end Sys2Proof.Machine
end

