-- ==== Sys2Proof/Laws/State.lean ====
section
/-! SUPPORT. One lemma per field of the state for each named update, so that no proof unfolds a record update; and the
lemmas of the channel accessors. -/

namespace Sys2Proof.Machine

/-! ## `State.setTime` -/

@[simp] theorem setTime_hours (s : State) (t : TimeOfDay) : (s.setTime t).hours = t.hours := rfl
@[simp] theorem setTime_minutes (s : State) (t : TimeOfDay) : (s.setTime t).minutes = t.minutes := rfl
@[simp] theorem setTime_seconds (s : State) (t : TimeOfDay) : (s.setTime t).seconds = t.seconds := rfl
@[simp] theorem setTime_meridiem (s : State) (t : TimeOfDay) : (s.setTime t).meridiem = t.meridiem := rfl
@[simp] theorem setTime_blink (s : State) (t : TimeOfDay) : (s.setTime t).blink = s.blink := rfl
@[simp] theorem setTime_aHours (s : State) (t : TimeOfDay) : (s.setTime t).aHours = s.aHours := rfl
@[simp] theorem setTime_aMinutes (s : State) (t : TimeOfDay) : (s.setTime t).aMinutes = s.aMinutes := rfl
@[simp] theorem setTime_aSeconds (s : State) (t : TimeOfDay) : (s.setTime t).aSeconds = s.aSeconds := rfl
@[simp] theorem setTime_aMeridiem (s : State) (t : TimeOfDay) : (s.setTime t).aMeridiem = s.aMeridiem := rfl
@[simp] theorem setTime_bright (s : State) (t : TimeOfDay) : (s.setTime t).bright = s.bright := rfl
@[simp] theorem setTime_pmode (s : State) (t : TimeOfDay) : (s.setTime t).pmode = s.pmode := rfl
@[simp] theorem setTime_dmode (s : State) (t : TimeOfDay) : (s.setTime t).dmode = s.dmode := rfl
@[simp] theorem setTime_cursor (s : State) (t : TimeOfDay) : (s.setTime t).cursor = s.cursor := rfl
@[simp] theorem setTime_rot (s : State) (t : TimeOfDay) : (s.setTime t).rot = s.rot := rfl
@[simp] theorem setTime_text (s : State) (t : TimeOfDay) : (s.setTime t).text = s.text := rfl
@[simp] theorem setTime_tlen (s : State) (t : TimeOfDay) : (s.setTime t).tlen = s.tlen := rfl
@[simp] theorem setTime_buzz (s : State) (t : TimeOfDay) : (s.setTime t).buzz = s.buzz := rfl
@[simp] theorem setTime_ringing (s : State) (t : TimeOfDay) : (s.setTime t).ringing = s.ringing := rfl
@[simp] theorem setTime_faultReg (s : State) (t : TimeOfDay) : (s.setTime t).faultReg = s.faultReg := rfl
@[simp] theorem setTime_encout (s : State) (t : TimeOfDay) : (s.setTime t).encout = s.encout := rfl
@[simp] theorem setTime_seg (s : State) (t : TimeOfDay) : (s.setTime t).seg = s.seg := rfl
@[simp] theorem setTime_pos (s : State) (t : TimeOfDay) : (s.setTime t).pos = s.pos := rfl
@[simp] theorem setTime_chan0 (s : State) (t : TimeOfDay) : (s.setTime t).chan0 = s.chan0 := rfl
@[simp] theorem setTime_chan1 (s : State) (t : TimeOfDay) : (s.setTime t).chan1 = s.chan1 := rfl
@[simp] theorem setTime_hctx (s : State) (t : TimeOfDay) : (s.setTime t).hctx = s.hctx := rfl
@[simp] theorem setTime_seqActive (s : State) (t : TimeOfDay) : (s.setTime t).seqActive = s.seqActive := rfl
@[simp] theorem setTime_seqCtx (s : State) (t : TimeOfDay) : (s.setTime t).seqCtx = s.seqCtx := rfl
@[simp] theorem setTime_seqN (s : State) (t : TimeOfDay) : (s.setTime t).seqN = s.seqN := rfl
@[simp] theorem setTime_seqRep (s : State) (t : TimeOfDay) : (s.setTime t).seqRep = s.seqRep := rfl
@[simp] theorem setTime_seqPos (s : State) (t : TimeOfDay) : (s.setTime t).seqPos = s.seqPos := rfl
@[simp] theorem setTime_seqPhase (s : State) (t : TimeOfDay) : (s.setTime t).seqPhase = s.seqPhase := rfl
@[simp] theorem setTime_swN (s : State) (t : TimeOfDay) : (s.setTime t).swN = s.swN := rfl
@[simp] theorem setTime_inputs (s : State) (t : TimeOfDay) : (s.setTime t).inputs = s.inputs := rfl
@[simp] theorem setTime_trace (s : State) (t : TimeOfDay) : (s.setTime t).trace = s.trace := rfl
@[simp] theorem setTime_responses (s : State) (t : TimeOfDay) : (s.setTime t).responses = s.responses := rfl
@[simp] theorem setTime_choice (s : State) (t : TimeOfDay) : (s.setTime t).choice = s.choice := rfl

/-! ## `respond` -/

@[simp] theorem respond_hours (d : Byte) (s : State) : (respond d s).hours = s.hours := rfl
@[simp] theorem respond_minutes (d : Byte) (s : State) : (respond d s).minutes = s.minutes := rfl
@[simp] theorem respond_seconds (d : Byte) (s : State) : (respond d s).seconds = s.seconds := rfl
@[simp] theorem respond_meridiem (d : Byte) (s : State) : (respond d s).meridiem = s.meridiem := rfl
@[simp] theorem respond_blink (d : Byte) (s : State) : (respond d s).blink = s.blink := rfl
@[simp] theorem respond_aHours (d : Byte) (s : State) : (respond d s).aHours = s.aHours := rfl
@[simp] theorem respond_aMinutes (d : Byte) (s : State) : (respond d s).aMinutes = s.aMinutes := rfl
@[simp] theorem respond_aSeconds (d : Byte) (s : State) : (respond d s).aSeconds = s.aSeconds := rfl
@[simp] theorem respond_aMeridiem (d : Byte) (s : State) : (respond d s).aMeridiem = s.aMeridiem := rfl
@[simp] theorem respond_bright (d : Byte) (s : State) : (respond d s).bright = s.bright := rfl
@[simp] theorem respond_pmode (d : Byte) (s : State) : (respond d s).pmode = s.pmode := rfl
@[simp] theorem respond_dmode (d : Byte) (s : State) : (respond d s).dmode = s.dmode := rfl
@[simp] theorem respond_cursor (d : Byte) (s : State) : (respond d s).cursor = s.cursor := rfl
@[simp] theorem respond_rot (d : Byte) (s : State) : (respond d s).rot = s.rot := rfl
@[simp] theorem respond_text (d : Byte) (s : State) : (respond d s).text = s.text := rfl
@[simp] theorem respond_tlen (d : Byte) (s : State) : (respond d s).tlen = s.tlen := rfl
@[simp] theorem respond_buzz (d : Byte) (s : State) : (respond d s).buzz = s.buzz := rfl
@[simp] theorem respond_ringing (d : Byte) (s : State) : (respond d s).ringing = s.ringing := rfl
@[simp] theorem respond_faultReg (d : Byte) (s : State) : (respond d s).faultReg = s.faultReg := rfl
@[simp] theorem respond_encout (d : Byte) (s : State) : (respond d s).encout = s.encout := rfl
@[simp] theorem respond_seg (d : Byte) (s : State) : (respond d s).seg = s.seg := rfl
@[simp] theorem respond_pos (d : Byte) (s : State) : (respond d s).pos = s.pos := rfl
@[simp] theorem respond_chan0 (d : Byte) (s : State) : (respond d s).chan0 = s.chan0 := rfl
@[simp] theorem respond_chan1 (d : Byte) (s : State) : (respond d s).chan1 = s.chan1 := rfl
@[simp] theorem respond_hctx (d : Byte) (s : State) : (respond d s).hctx = s.hctx := rfl
@[simp] theorem respond_seqActive (d : Byte) (s : State) : (respond d s).seqActive = s.seqActive := rfl
@[simp] theorem respond_seqCtx (d : Byte) (s : State) : (respond d s).seqCtx = s.seqCtx := rfl
@[simp] theorem respond_seqN (d : Byte) (s : State) : (respond d s).seqN = s.seqN := rfl
@[simp] theorem respond_seqRep (d : Byte) (s : State) : (respond d s).seqRep = s.seqRep := rfl
@[simp] theorem respond_seqPos (d : Byte) (s : State) : (respond d s).seqPos = s.seqPos := rfl
@[simp] theorem respond_seqPhase (d : Byte) (s : State) : (respond d s).seqPhase = s.seqPhase := rfl
@[simp] theorem respond_swN (d : Byte) (s : State) : (respond d s).swN = s.swN := rfl
@[simp] theorem respond_inputs (d : Byte) (s : State) : (respond d s).inputs = s.inputs := rfl
@[simp] theorem respond_trace (d : Byte) (s : State) : (respond d s).trace = s.trace := rfl
@[simp] theorem respond_responses (d : Byte) (s : State) : (respond d s).responses = s.responses ++ [responseWord 0x00 d] := rfl
@[simp] theorem respond_choice (d : Byte) (s : State) : (respond d s).choice = s.choice := rfl

/-! ## `refuse` -/

@[simp] theorem refuse_hours (r : RefuseCode) (s : State) : (refuse r s).hours = s.hours := rfl
@[simp] theorem refuse_minutes (r : RefuseCode) (s : State) : (refuse r s).minutes = s.minutes := rfl
@[simp] theorem refuse_seconds (r : RefuseCode) (s : State) : (refuse r s).seconds = s.seconds := rfl
@[simp] theorem refuse_meridiem (r : RefuseCode) (s : State) : (refuse r s).meridiem = s.meridiem := rfl
@[simp] theorem refuse_blink (r : RefuseCode) (s : State) : (refuse r s).blink = s.blink := rfl
@[simp] theorem refuse_aHours (r : RefuseCode) (s : State) : (refuse r s).aHours = s.aHours := rfl
@[simp] theorem refuse_aMinutes (r : RefuseCode) (s : State) : (refuse r s).aMinutes = s.aMinutes := rfl
@[simp] theorem refuse_aSeconds (r : RefuseCode) (s : State) : (refuse r s).aSeconds = s.aSeconds := rfl
@[simp] theorem refuse_aMeridiem (r : RefuseCode) (s : State) : (refuse r s).aMeridiem = s.aMeridiem := rfl
@[simp] theorem refuse_bright (r : RefuseCode) (s : State) : (refuse r s).bright = s.bright := rfl
@[simp] theorem refuse_pmode (r : RefuseCode) (s : State) : (refuse r s).pmode = s.pmode := rfl
@[simp] theorem refuse_dmode (r : RefuseCode) (s : State) : (refuse r s).dmode = s.dmode := rfl
@[simp] theorem refuse_cursor (r : RefuseCode) (s : State) : (refuse r s).cursor = s.cursor := rfl
@[simp] theorem refuse_rot (r : RefuseCode) (s : State) : (refuse r s).rot = s.rot := rfl
@[simp] theorem refuse_text (r : RefuseCode) (s : State) : (refuse r s).text = s.text := rfl
@[simp] theorem refuse_tlen (r : RefuseCode) (s : State) : (refuse r s).tlen = s.tlen := rfl
@[simp] theorem refuse_buzz (r : RefuseCode) (s : State) : (refuse r s).buzz = s.buzz := rfl
@[simp] theorem refuse_ringing (r : RefuseCode) (s : State) : (refuse r s).ringing = s.ringing := rfl
@[simp] theorem refuse_faultReg (r : RefuseCode) (s : State) : (refuse r s).faultReg = if s.faultReg = 0 then refuseCode r else s.faultReg := rfl
@[simp] theorem refuse_encout (r : RefuseCode) (s : State) : (refuse r s).encout = s.encout := rfl
@[simp] theorem refuse_seg (r : RefuseCode) (s : State) : (refuse r s).seg = s.seg := rfl
@[simp] theorem refuse_pos (r : RefuseCode) (s : State) : (refuse r s).pos = s.pos := rfl
@[simp] theorem refuse_chan0 (r : RefuseCode) (s : State) : (refuse r s).chan0 = s.chan0 := rfl
@[simp] theorem refuse_chan1 (r : RefuseCode) (s : State) : (refuse r s).chan1 = s.chan1 := rfl
@[simp] theorem refuse_hctx (r : RefuseCode) (s : State) : (refuse r s).hctx = s.hctx := rfl
@[simp] theorem refuse_seqActive (r : RefuseCode) (s : State) : (refuse r s).seqActive = s.seqActive := rfl
@[simp] theorem refuse_seqCtx (r : RefuseCode) (s : State) : (refuse r s).seqCtx = s.seqCtx := rfl
@[simp] theorem refuse_seqN (r : RefuseCode) (s : State) : (refuse r s).seqN = s.seqN := rfl
@[simp] theorem refuse_seqRep (r : RefuseCode) (s : State) : (refuse r s).seqRep = s.seqRep := rfl
@[simp] theorem refuse_seqPos (r : RefuseCode) (s : State) : (refuse r s).seqPos = s.seqPos := rfl
@[simp] theorem refuse_seqPhase (r : RefuseCode) (s : State) : (refuse r s).seqPhase = s.seqPhase := rfl
@[simp] theorem refuse_swN (r : RefuseCode) (s : State) : (refuse r s).swN = s.swN := rfl
@[simp] theorem refuse_inputs (r : RefuseCode) (s : State) : (refuse r s).inputs = s.inputs := rfl
@[simp] theorem refuse_trace (r : RefuseCode) (s : State) : (refuse r s).trace = s.trace := rfl
@[simp] theorem refuse_responses (r : RefuseCode) (s : State) : (refuse r s).responses = s.responses ++ [responseWord (refuseCode r) 0x00] := rfl
@[simp] theorem refuse_choice (r : RefuseCode) (s : State) : (refuse r s).choice = s.choice := rfl

/-! ## `regenerate` -/

@[simp] theorem regenerate_hours (cfg : Config) (s : State) : (regenerate cfg s).hours = s.hours := rfl
@[simp] theorem regenerate_minutes (cfg : Config) (s : State) : (regenerate cfg s).minutes = s.minutes := rfl
@[simp] theorem regenerate_seconds (cfg : Config) (s : State) : (regenerate cfg s).seconds = s.seconds := rfl
@[simp] theorem regenerate_meridiem (cfg : Config) (s : State) : (regenerate cfg s).meridiem = s.meridiem := rfl
@[simp] theorem regenerate_blink (cfg : Config) (s : State) : (regenerate cfg s).blink = s.blink := rfl
@[simp] theorem regenerate_aHours (cfg : Config) (s : State) : (regenerate cfg s).aHours = s.aHours := rfl
@[simp] theorem regenerate_aMinutes (cfg : Config) (s : State) : (regenerate cfg s).aMinutes = s.aMinutes := rfl
@[simp] theorem regenerate_aSeconds (cfg : Config) (s : State) : (regenerate cfg s).aSeconds = s.aSeconds := rfl
@[simp] theorem regenerate_aMeridiem (cfg : Config) (s : State) : (regenerate cfg s).aMeridiem = s.aMeridiem := rfl
@[simp] theorem regenerate_bright (cfg : Config) (s : State) : (regenerate cfg s).bright = s.bright := rfl
@[simp] theorem regenerate_pmode (cfg : Config) (s : State) : (regenerate cfg s).pmode = s.pmode := rfl
@[simp] theorem regenerate_dmode (cfg : Config) (s : State) : (regenerate cfg s).dmode = s.dmode := rfl
@[simp] theorem regenerate_cursor (cfg : Config) (s : State) : (regenerate cfg s).cursor = 0 := rfl
@[simp] theorem regenerate_rot (cfg : Config) (s : State) : (regenerate cfg s).rot = s.rot := rfl
@[simp] theorem regenerate_text (cfg : Config) (s : State) : (regenerate cfg s).text = Memory.ofString 0 (cfg.speak s.hours s.minutes s.meridiem) := rfl
@[simp] theorem regenerate_tlen (cfg : Config) (s : State) : (regenerate cfg s).tlen = BitVec.ofNat 8 (cfg.speak s.hours s.minutes s.meridiem).length := rfl
@[simp] theorem regenerate_buzz (cfg : Config) (s : State) : (regenerate cfg s).buzz = s.buzz := rfl
@[simp] theorem regenerate_ringing (cfg : Config) (s : State) : (regenerate cfg s).ringing = s.ringing := rfl
@[simp] theorem regenerate_faultReg (cfg : Config) (s : State) : (regenerate cfg s).faultReg = s.faultReg := rfl
@[simp] theorem regenerate_encout (cfg : Config) (s : State) : (regenerate cfg s).encout = s.encout := rfl
@[simp] theorem regenerate_seg (cfg : Config) (s : State) : (regenerate cfg s).seg = s.seg := rfl
@[simp] theorem regenerate_pos (cfg : Config) (s : State) : (regenerate cfg s).pos = s.pos := rfl
@[simp] theorem regenerate_chan0 (cfg : Config) (s : State) : (regenerate cfg s).chan0 = s.chan0 := rfl
@[simp] theorem regenerate_chan1 (cfg : Config) (s : State) : (regenerate cfg s).chan1 = s.chan1 := rfl
@[simp] theorem regenerate_hctx (cfg : Config) (s : State) : (regenerate cfg s).hctx = s.hctx := rfl
@[simp] theorem regenerate_seqActive (cfg : Config) (s : State) : (regenerate cfg s).seqActive = s.seqActive := rfl
@[simp] theorem regenerate_seqCtx (cfg : Config) (s : State) : (regenerate cfg s).seqCtx = s.seqCtx := rfl
@[simp] theorem regenerate_seqN (cfg : Config) (s : State) : (regenerate cfg s).seqN = s.seqN := rfl
@[simp] theorem regenerate_seqRep (cfg : Config) (s : State) : (regenerate cfg s).seqRep = s.seqRep := rfl
@[simp] theorem regenerate_seqPos (cfg : Config) (s : State) : (regenerate cfg s).seqPos = s.seqPos := rfl
@[simp] theorem regenerate_seqPhase (cfg : Config) (s : State) : (regenerate cfg s).seqPhase = s.seqPhase := rfl
@[simp] theorem regenerate_swN (cfg : Config) (s : State) : (regenerate cfg s).swN = s.swN := rfl
@[simp] theorem regenerate_inputs (cfg : Config) (s : State) : (regenerate cfg s).inputs = s.inputs := rfl
@[simp] theorem regenerate_trace (cfg : Config) (s : State) : (regenerate cfg s).trace = s.trace := rfl
@[simp] theorem regenerate_responses (cfg : Config) (s : State) : (regenerate cfg s).responses = s.responses := rfl
@[simp] theorem regenerate_choice (cfg : Config) (s : State) : (regenerate cfg s).choice = s.choice := rfl

/-! ## `startPass` -/

@[simp] theorem startPass_hours (c : SeqCtx) (n : Half) (s : State) : (startPass c n s).hours = s.hours := rfl
@[simp] theorem startPass_minutes (c : SeqCtx) (n : Half) (s : State) : (startPass c n s).minutes = s.minutes := rfl
@[simp] theorem startPass_seconds (c : SeqCtx) (n : Half) (s : State) : (startPass c n s).seconds = s.seconds := rfl
@[simp] theorem startPass_meridiem (c : SeqCtx) (n : Half) (s : State) : (startPass c n s).meridiem = s.meridiem := rfl
@[simp] theorem startPass_blink (c : SeqCtx) (n : Half) (s : State) : (startPass c n s).blink = s.blink := rfl
@[simp] theorem startPass_aHours (c : SeqCtx) (n : Half) (s : State) : (startPass c n s).aHours = s.aHours := rfl
@[simp] theorem startPass_aMinutes (c : SeqCtx) (n : Half) (s : State) : (startPass c n s).aMinutes = s.aMinutes := rfl
@[simp] theorem startPass_aSeconds (c : SeqCtx) (n : Half) (s : State) : (startPass c n s).aSeconds = s.aSeconds := rfl
@[simp] theorem startPass_aMeridiem (c : SeqCtx) (n : Half) (s : State) : (startPass c n s).aMeridiem = s.aMeridiem := rfl
@[simp] theorem startPass_bright (c : SeqCtx) (n : Half) (s : State) : (startPass c n s).bright = s.bright := rfl
@[simp] theorem startPass_pmode (c : SeqCtx) (n : Half) (s : State) : (startPass c n s).pmode = s.pmode := rfl
@[simp] theorem startPass_dmode (c : SeqCtx) (n : Half) (s : State) : (startPass c n s).dmode = s.dmode := rfl
@[simp] theorem startPass_cursor (c : SeqCtx) (n : Half) (s : State) : (startPass c n s).cursor = s.cursor := rfl
@[simp] theorem startPass_rot (c : SeqCtx) (n : Half) (s : State) : (startPass c n s).rot = s.rot := rfl
@[simp] theorem startPass_text (c : SeqCtx) (n : Half) (s : State) : (startPass c n s).text = s.text := rfl
@[simp] theorem startPass_tlen (c : SeqCtx) (n : Half) (s : State) : (startPass c n s).tlen = s.tlen := rfl
@[simp] theorem startPass_buzz (c : SeqCtx) (n : Half) (s : State) : (startPass c n s).buzz = s.buzz := rfl
@[simp] theorem startPass_ringing (c : SeqCtx) (n : Half) (s : State) : (startPass c n s).ringing = s.ringing := rfl
@[simp] theorem startPass_faultReg (c : SeqCtx) (n : Half) (s : State) : (startPass c n s).faultReg = s.faultReg := rfl
@[simp] theorem startPass_encout (c : SeqCtx) (n : Half) (s : State) : (startPass c n s).encout = s.encout := rfl
@[simp] theorem startPass_seg (c : SeqCtx) (n : Half) (s : State) : (startPass c n s).seg = s.seg := rfl
@[simp] theorem startPass_pos (c : SeqCtx) (n : Half) (s : State) : (startPass c n s).pos = s.pos := rfl
@[simp] theorem startPass_chan0 (c : SeqCtx) (n : Half) (s : State) : (startPass c n s).chan0 = s.chan0 := rfl
@[simp] theorem startPass_chan1 (c : SeqCtx) (n : Half) (s : State) : (startPass c n s).chan1 = s.chan1 := rfl
@[simp] theorem startPass_hctx (c : SeqCtx) (n : Half) (s : State) : (startPass c n s).hctx = s.hctx := rfl
@[simp] theorem startPass_seqActive (c : SeqCtx) (n : Half) (s : State) : (startPass c n s).seqActive = true := rfl
@[simp] theorem startPass_seqCtx (c : SeqCtx) (n : Half) (s : State) : (startPass c n s).seqCtx = c := rfl
@[simp] theorem startPass_seqN (c : SeqCtx) (n : Half) (s : State) : (startPass c n s).seqN = n := rfl
@[simp] theorem startPass_seqRep (c : SeqCtx) (n : Half) (s : State) : (startPass c n s).seqRep = 0 := rfl
@[simp] theorem startPass_seqPos (c : SeqCtx) (n : Half) (s : State) : (startPass c n s).seqPos = .p1 := rfl
@[simp] theorem startPass_seqPhase (c : SeqCtx) (n : Half) (s : State) : (startPass c n s).seqPhase = .drive := rfl
@[simp] theorem startPass_swN (c : SeqCtx) (n : Half) (s : State) : (startPass c n s).swN = s.swN := rfl
@[simp] theorem startPass_inputs (c : SeqCtx) (n : Half) (s : State) : (startPass c n s).inputs = s.inputs := rfl
@[simp] theorem startPass_trace (c : SeqCtx) (n : Half) (s : State) : (startPass c n s).trace = s.trace := rfl
@[simp] theorem startPass_responses (c : SeqCtx) (n : Half) (s : State) : (startPass c n s).responses = s.responses := rfl
@[simp] theorem startPass_choice (c : SeqCtx) (n : Half) (s : State) : (startPass c n s).choice = s.choice := rfl

/-! ## The channel accessors -/

@[simp] theorem chan_ch0 (s : State) : s.chan .ch0 = s.chan0 := rfl
@[simp] theorem chan_ch1 (s : State) : s.chan .ch1 = s.chan1 := rfl
@[simp] theorem setChan_ch0 (s : State) (t : TimerChannel) : s.setChan .ch0 t = { s with chan0 := t } := rfl
@[simp] theorem setChan_ch1 (s : State) (t : TimerChannel) : s.setChan .ch1 t = { s with chan1 := t } := rfl

/-- Taking an input leaves the channels. -/
@[simp] theorem chan_inputs (s : State) (c : Channel) (l : List Input) :
    State.chan { s with inputs := l } c = s.chan c := by
  cases c <;> rfl

/-- Writing a channel writes that and nothing else. -/
theorem setChan_frame (s : State) (c : Channel) (t : TimerChannel) :
    s.setChan c t = { s with chan0 := (s.setChan c t).chan0, chan1 := (s.setChan c t).chan1 } := by
  cases c <;> rfl

/-- R34, R180: what a write of a register by number can reach. -/
theorem regWrite_frame (r : Reg) (v : Byte) (s : State) :
    regWrite r v s = { s with
      hours := (regWrite r v s).hours, minutes := (regWrite r v s).minutes, seconds := (regWrite r v s).seconds
      meridiem := (regWrite r v s).meridiem, blink := (regWrite r v s).blink, aHours := (regWrite r v s).aHours
      aMinutes := (regWrite r v s).aMinutes, aSeconds := (regWrite r v s).aSeconds
      aMeridiem := (regWrite r v s).aMeridiem, bright := (regWrite r v s).bright, pmode := (regWrite r v s).pmode
      dmode := (regWrite r v s).dmode, cursor := (regWrite r v s).cursor, rot := (regWrite r v s).rot
      tlen := (regWrite r v s).tlen, buzz := (regWrite r v s).buzz, ringing := (regWrite r v s).ringing } := by
  cases r <;> rfl

/-- R160: a channel written reads back, the other as before. -/
theorem chan_setChan (s : State) (c d : Channel) (t : TimerChannel) :
    (s.setChan c t).chan d = if d = c then t else s.chan d := by
  cases c <;> cases d <;> rfl

end Sys2Proof.Machine
end

