-- ==== Sys2Proof/Laws/Ops.lean ====
section
/-! SUPPORT. What each shared operation can do, said once: the glyph functions and the machine's configuration, the time of day, the tick,
the text regenerated, the completion of a pass and the micro-steps of the sequencer. -/

namespace Sys2Proof.Machine

/-! ## Configuration and glyphs -/

/-- R81: a digit value below 10 has a pattern, no other has. -/
theorem encDigit_eq (cfg : Config) (d : Byte) :
    encDigit cfg d = if h : d.toNat < 10 then some (cfg.digit ⟨d.toNat, h⟩) else none := rfl

theorem encDigit_none {cfg : Config} {d : Byte} : encDigit cfg d = none ↔ 9 < d.toNat := by
  unfold encDigit
  split_ifs with h <;> simp <;> omega

theorem defaultChar_blank : ∀ c : Byte, acceptedCode c = false → defaultChar c = 0x00 := by decide
theorem defaultChar_folded : ∀ c : Byte, isLowerCode c = true → defaultChar c = defaultChar (c - 0x20) := by decide

/-- R144, R184: the machine's strings fit the buffer. -/
theorem chip_speak_fits (h m : Byte) (mer : Meridiem) : (chip.speak h m mer).length ≤ textMax := by
  simp [chip]

/-- R20, R144: the length of a string that fits is written to `TLEN` whole. -/
theorem tlen_speak {cfg : Config} (hc : LegalConfig cfg) (h m : Byte) (mer : Meridiem) :
    (BitVec.ofNat 8 (cfg.speak h m mer).length).toNat = (cfg.speak h m mer).length := by
  have := hc.speak_fits h m mer
  rw [BitVec.toNat_ofNat]
  simp only [textMax] at this
  omega

/-- R3, R83, R84: whatever the OPEN parameters are, the machine's configuration meets the constraints of the spec. -/
theorem chip_legal : LegalConfig chip where
  dwellLow_pos := Nat.succ_pos _
  dwellLow_lt_high := by simp [chip]
  siren_pos := Nat.succ_pos _
  period_pos := by
    have := Config.openRefreshPeriod.isLt
    intro h
    have h' := congrArg BitVec.toNat h
    simp only [chip, BitVec.toNat_ofNat, BitVec.ofNat_eq_ofNat] at h'
    omega
  blank_outside := defaultChar_blank
  case_folded := defaultChar_folded
  speak_fits := chip_speak_fits

/-! ## The time of day -/

/-- R12, R13 in numbers. -/
theorem legal_iff (t : TimeOfDay) :
    t.legal = true ↔ 1 ≤ t.hours.toNat ∧ t.hours.toNat ≤ 12 ∧ t.minutes.toNat ≤ 59 ∧ t.seconds.toNat ≤ 59 := by
  simp [TimeOfDay.legal, hourLegal, sixtyLegal, and_assoc]

/-- R3, R35: whatever the boot values are, both records are legal at reset. -/
theorem resetWith_legal (r : ResetValues) :
    (State.resetWith r).wallTime.legal = true ∧ (State.resetWith r).alarmTime.legal = true :=
  ⟨(legal_iff _).2 ⟨r.hours_legal.1, r.hours_legal.2, r.minutes_legal, r.seconds_legal⟩,
    (legal_iff _).2 ⟨r.aHours_legal.1, r.aHours_legal.2, r.aMinutes_legal, r.aSeconds_legal⟩⟩

/-- R35: the machine's reset is the reset under its configuration. -/
theorem reset_eq : State.reset = State.resetWith chip.rst := rfl

/-- R14, R149: the cascade keeps R12 and R13. -/
theorem cascade_legal {t : TimeOfDay} (h : t.legal = true) : (cascade t).legal = true := by
  rw [legal_iff] at h ⊢
  obtain ⟨hr, mn, sc, me⟩ := t
  obtain ⟨h1, h2, h3, h4⟩ := h
  simp only at h1 h2 h3 h4
  simp only [cascade, minuteCarry, hourCarry]
  split_ifs with a b c d
  all_goals simp only [BitVec.toNat_eq, BitVec.toNat_add, BitVec.ofNat_eq_ofNat, BitVec.toNat_ofNat] at *
  all_goals omega

/-- R141: the second of a legal time reaches 60 exactly from 59. -/
theorem succ_eq_sixty {v : Byte} : v + 1 = 60 ↔ v.toNat = 59 := by
  rw [BitVec.toNat_eq]
  simp only [BitVec.toNat_add, BitVec.ofNat_eq_ofNat, BitVec.toNat_ofNat]
  have := v.isLt
  omega

/-- R141: a counter below 60 is incremented without overflow. -/
theorem toNat_succ {v : Byte} (h : v.toNat < 255) : (v + 1).toNat = v.toNat + 1 := by
  simp only [BitVec.toNat_add, BitVec.ofNat_eq_ofNat, BitVec.toNat_ofNat]
  omega

@[simp] theorem minuteChanges_eq_true (t : TimeOfDay) : minuteChanges t = true ↔ t.seconds.toNat = 59 := by
  simp only [minuteChanges, beq_iff_eq, succ_eq_sixty]

/-! ## The tick (R140) -/

@[simp] theorem tick_wallTime (cfg : Config) (s : State) : (tick cfg s).wallTime = cascade s.wallTime := by
  unfold tick
  cases minuteChanges s.wallTime <;> rfl
@[simp] theorem tick_blink (cfg : Config) (s : State) : (tick cfg s).blink = !s.blink := by
  unfold tick
  cases minuteChanges s.wallTime <;> rfl
@[simp] theorem tick_buzz (cfg : Config) (s : State) : (tick cfg s).buzz = true := rfl
theorem tick_bright (cfg : Config) (s : State) :
    (tick cfg s).bright =
      if s.pmode = .setTime then s.bright else !dim (cascade s.wallTime).hours (cascade s.wallTime).meridiem := by
  unfold tick
  cases minuteChanges s.wallTime <;> rfl
theorem tick_text (cfg : Config) (s : State) :
    (tick cfg s).text =
      if minuteChanges s.wallTime then
        Memory.ofString 0 (cfg.speak (tick cfg s).hours (tick cfg s).minutes (tick cfg s).meridiem) else s.text := by
  unfold tick
  cases minuteChanges s.wallTime <;> rfl
theorem tick_tlen (cfg : Config) (s : State) :
    (tick cfg s).tlen =
      if minuteChanges s.wallTime then
        BitVec.ofNat 8 (cfg.speak (tick cfg s).hours (tick cfg s).minutes (tick cfg s).meridiem).length else s.tlen := by
  unfold tick
  cases minuteChanges s.wallTime <;> rfl
theorem tick_cursor (cfg : Config) (s : State) :
    (tick cfg s).cursor = if minuteChanges s.wallTime then 0 else s.cursor := by
  unfold tick
  cases minuteChanges s.wallTime <;> rfl

/-- R34: what a tick writes; everything else is as it was. -/
theorem tick_frame (cfg : Config) (s : State) :
    tick cfg s = { s with
      hours := (tick cfg s).hours, minutes := (tick cfg s).minutes, seconds := (tick cfg s).seconds
      meridiem := (tick cfg s).meridiem, blink := (tick cfg s).blink, bright := (tick cfg s).bright
      text := (tick cfg s).text, tlen := (tick cfg s).tlen, cursor := (tick cfg s).cursor
      buzz := (tick cfg s).buzz } := by
  unfold tick
  cases minuteChanges s.wallTime <;> rfl

/-- R149: TICK answers a next state exactly on a legal WallClock. -/
theorem tickWith_next {cfg : Config} {s t : State} : tickWith cfg s = .next t ↔ s.wallTime.legal = true ∧ t = tick cfg s := by
  unfold tickWith
  split_ifs with h <;> simp [h, eq_comm]

/-! ## Completion and scroll -/

/-- R121: a foreground pass answers its command. -/
theorem complete_foreground {s : State} (h : s.seqCtx = .foreground) :
    complete s = respond 0x00 { s with seqActive := false } := by simp [complete, h]

/-- R121: a refresh pass returns from the handler. -/
theorem complete_refresh {s : State} (h : s.seqCtx = .refresh) :
    complete s = { s with seqActive := false, hctx := .none } := by simp [complete, h]

/-- R116, R117: the scroll writes `ROT` and `CURSOR` alone. -/
theorem scrollAdvance_frame (s : State) :
    scrollAdvance s = { s with rot := (scrollAdvance s).rot, cursor := (scrollAdvance s).cursor } := by
  unfold scrollAdvance
  split <;> rfl

/-! ## Micro-steps -/

/-- R151: the two divisions of the block are those of the naturals. -/
theorem toNat_div_ten (v : Byte) : (v / 10).toNat = v.toNat / 10 := BitVec.toNat_udiv
theorem toNat_mod_ten (v : Byte) : (v % 10).toNat = v.toNat % 10 := BitVec.toNat_umod

/-- R106 to R113: a slot of a state with a legal record and a legal `TLEN` has a pattern. -/
theorem slotPattern_ok {cfg : Config} {s : State} (hc : s.wallTime.legal = true) (ha : s.alarmTime.legal = true)
    (ht : s.tlen.toNat ≤ textMax) (p : Position) : ∃ pat, slotPattern cfg s p = .ok pat := by
  have hd : s.displayed.legal = true := by
    unfold State.displayed
    cases s.pmode <;> assumption
  have hl := (legal_iff _).1 hd
  have hw : ∀ d o : Byte, d.toNat < 10 → ∃ pat, digitWith cfg d o = .ok pat := fun d o h => by
    simp [digitWith, encDigit, h]
  unfold slotPattern
  cases s.dmode
  · simp only [numericPattern, hd, if_true]
    cases p
    · by_cases hn : s.displayed.hours.toNat ≤ 9
      · simp [hn]
      · simp only [hn, if_false]
        exact hw _ _ (by rw [toNat_div_ten]; omega)
    · exact hw _ _ (by rw [toNat_mod_ten]; omega)
    · exact hw _ _ (by rw [toNat_div_ten]; omega)
    · exact hw _ _ (by rw [toNat_mod_ten]; omega)
    · exact ⟨_, rfl⟩
  · simp only [textPattern]
    split_ifs with h1 h2 h3
    · exact ⟨_, rfl⟩
    · exact ⟨_, rfl⟩
    · omega
    · exact ⟨_, rfl⟩

/-- R103: only the phase DRIVE of a pass with cycles left can stop, and only for want of a pattern. -/
theorem microStep_next {cfg : Config} {s : State} (h : ∃ pat, slotPattern cfg s s.seqPos = .ok pat) :
    ∃ t, microStep cfg s = .next t := by
  obtain ⟨pat, hp⟩ := h
  unfold microStep
  cases s.seqPhase
  · simp only [driveStep, hp]
    split_ifs <;> exact ⟨_, rfl⟩
  all_goals exact ⟨_, rfl⟩

end Sys2Proof.Machine
end

