-- ==== Sys2Proof/Laws/Step.lean ====
section
/-! SUPPORT. What a step can do, said once: the pending callback that is served, the block's own transition, the firing of a
channel and the step itself. Proofs about every step cite `transition_cases`, `ownStep_cases`, `takeFiring_cases` and
the exec lemmas. -/

namespace Sys2Proof.Machine

/-! ## Pending callbacks -/

theorem nextPending_none {s : State} : nextPending s = none ↔ s.due .ch0 = false ∧ s.due .ch1 = false := by
  unfold nextPending
  cases s.due .ch0 <;> cases s.due .ch1 <;> simp

/-- R199, R197: what is served is a due callback, and nothing but the count of choices may have moved. -/
theorem nextPending_some {s v : State} {c : Channel} (h : nextPending s = some (c, v)) :
    s.due c = true ∧ (v = s ∨ v = { s with choice := s.choice + 1 }) := by
  unfold nextPending at h
  cases h0 : s.due .ch0 <;> cases h1 : s.due .ch1 <;> rw [h0, h1] at h <;> simp at h
  · obtain ⟨rfl, rfl⟩ := h
    exact ⟨h1, .inl rfl⟩
  · obtain ⟨rfl, rfl⟩ := h
    exact ⟨h0, .inl rfl⟩
  · obtain ⟨rfl, rfl⟩ := h
    refine ⟨?_, .inr rfl⟩
    cases Config.pendingFirst s.choice
    · exact h0
    · exact h1

/-! ## The block's own transition

`ex` gives the meanings of the operations and `cfg` the parameters; the machine is the instance at `exec` and `chip`. -/

variable {ex : Instr → State → Outcome} {cfg : Config}

/-- The three things the block does by itself (R199, R103, R220). -/
def OwnStep (ex : Instr → State → Outcome) (cfg : Config) (u t : State) : Prop :=
  (∃ c v, u.hctx = .none ∧ u.due c = true ∧ (v = u ∨ v = { u with choice := u.choice + 1 }) ∧
    ex c.callback (clearPending c v) = .next t) ∨
  (u.seqActive = true ∧ (u.hctx = .refresh ∨ (u.due .ch0 = false ∧ u.due .ch1 = false)) ∧ microStep cfg u = .next t) ∨
  (u.seqActive = false ∧ t = u)

/-- What `ownAction` can answer. -/
theorem ownAction_cases (u : State) :
    (∃ c v, u.hctx = .none ∧ u.due c = true ∧ (v = u ∨ v = { u with choice := u.choice + 1 }) ∧
      ownAction u = (.serve c, clearPending c v)) ∨
    (u.seqActive = true ∧ (u.hctx = .refresh ∨ (u.due .ch0 = false ∧ u.due .ch1 = false)) ∧
      ownAction u = (.sequencer, u)) ∨
    (u.seqActive = false ∧ (u.hctx = .refresh ∨ (u.due .ch0 = false ∧ u.due .ch1 = false)) ∧ ownAction u = (.idle, u)) := by
  have hh : u.hctx = .none ∨ u.hctx = .refresh := by cases u.hctx <;> simp
  rcases hh with hh | hh
  · cases hp : nextPending u with
    | none =>
      have hn := nextPending_none.1 hp
      cases ha : u.seqActive
      · exact .inr (.inr ⟨rfl, .inr hn, by simp [ownAction, hh, hp, ha]⟩)
      · exact .inr (.inl ⟨rfl, .inr hn, by simp [ownAction, hh, hp, ha]⟩)
    | some e =>
      obtain ⟨c, v⟩ := e
      obtain ⟨hd, hv⟩ := nextPending_some hp
      exact .inl ⟨c, v, hh, hd, hv, by simp [ownAction, hh, hp]⟩
  · cases ha : u.seqActive
    · exact .inr (.inr ⟨rfl, .inl hh, by simp [ownAction, hh, ha]⟩)
    · exact .inr (.inl ⟨rfl, .inl hh, by simp [ownAction, hh, ha]⟩)

/-! ## The step -/

/-- The machine is the step relation with the meanings of exec and the parameters of `chip`. -/
theorem step_eq (s : State) : step s = transition exec chip s := rfl

/-- The meanings of exec are those of the step relation at `chip`. -/
theorem exec_eq (i : Instr) (s : State) : exec i s = execWith chip i s := by cases i <;> rfl

/-- The machine is the step relation at `chip`. -/
theorem step_eq_stepWith (s : State) : step s = stepWith chip s := by
  have h : exec = execWith chip := funext fun i => funext fun s => exec_eq i s
  rw [step_eq, h, stepWith]

theorem transition_line {s : State} {l : Level} {rest : List Input} (h : s.inputs = .line l :: rest) :
    transition ex cfg s = .next { s with swN := l, inputs := rest } := by
  simp [transition, arbitrate, h]

theorem transition_powerOn {s : State} {rest : List Input} (h : s.inputs = .powerOn :: rest) :
    transition ex cfg s = .next (powerOn cfg { s with inputs := rest }) := by
  simp [transition, arbitrate, h]

theorem transition_event {s : State} {ev : Byte} {rest : List Input} (h : s.inputs = .event ev :: rest) :
    transition ex cfg s = deliverEvent ex ev { s with inputs := rest } := by
  simp [transition, arbitrate, h]

theorem transition_command {s : State} {w : CommandWord} {rest : List Input} (h : s.inputs = .command w :: rest)
    (hm : s.hostMayStep = true) : transition ex cfg s = giveCommand ex w { s with inputs := rest } := by
  simp [transition, arbitrate, h, hm]

/-- The step the block makes by itself from `u`. -/
def ownStep (ex : Instr → State → Outcome) (cfg : Config) (u : State) : Outcome :=
  match ownAction u with
  | (.serve c, t) => ex c.callback t
  | (.sequencer, t) => microStep cfg t
  | (_, t) => .next t

theorem transition_own {s u : State} (h : arbitrate s = ownAction u) : transition ex cfg s = ownStep ex cfg u := by
  unfold transition ownStep
  rw [h]
  rcases ownAction_cases u with ⟨c, v, -, -, -, h⟩ | ⟨-, -, h⟩ | ⟨-, -, h⟩ <;> rw [h]

theorem transition_wait {s : State} {rest : List Input} (h : s.inputs = .wait :: rest) :
    transition ex cfg s = ownStep ex cfg { s with inputs := rest } := transition_own (by simp [arbitrate, h])

theorem transition_nil {s : State} (h : s.inputs = []) : transition ex cfg s = ownStep ex cfg s :=
  transition_own (by simp [arbitrate, h])

theorem transition_blocked {s : State} {w : CommandWord} {rest : List Input} (h : s.inputs = .command w :: rest)
    (hm : s.hostMayStep = false) : transition ex cfg s = ownStep ex cfg s := transition_own (by simp [arbitrate, h, hm])

theorem ownStep_cases {u t : State} (h : ownStep ex cfg u = .next t) : OwnStep ex cfg u t := by
  unfold ownStep at h
  rcases ownAction_cases u with ⟨c, v, h1, h2, h3, ho⟩ | ⟨h1, h2, ho⟩ | ⟨h1, h2, ho⟩ <;> rw [ho] at h
  · exact .inl ⟨c, v, h1, h2, h3, h⟩
  · exact .inr (.inl ⟨h1, h2, h⟩)
  · exact .inr (.inr ⟨h1, by simpa using h.symm⟩)

/-- The sequencer's turn: no callback goes before it (R199). -/
theorem ownStep_sequencer {u : State} (ha : u.seqActive = true)
    (hp : u.hctx = .refresh ∨ (u.due .ch0 = false ∧ u.due .ch1 = false)) : ownStep ex cfg u = microStep cfg u := by
  unfold ownStep
  rcases ownAction_cases u with ⟨c, v, h1, h2, -, -⟩ | ⟨-, -, ho⟩ | ⟨h1, -, -⟩
  · rcases hp with hp | ⟨h0, h1'⟩
    · simp [h1] at hp
    · cases c <;> simp_all
  · rw [ho]
  · simp [ha] at h1

/-- Nothing to do: the state stays (R220). -/
theorem ownStep_idle {u : State} (ha : u.seqActive = false) (hp : u.due .ch0 = false ∧ u.due .ch1 = false) :
    ownStep ex cfg u = .next u := by
  unfold ownStep
  rcases ownAction_cases u with ⟨c, v, h1, h2, -, -⟩ | ⟨h1, -, -⟩ | ⟨-, -, ho⟩
  · cases c <;> simp_all
  · simp [ha] at h1
  · rw [ho]

theorem hostMayStep_iff {s : State} :
    s.hostMayStep = true ↔ s.hctx = .none ∧ s.seqActive = false ∧ s.due .ch0 = false ∧ s.due .ch1 = false := by
  unfold State.hostMayStep
  cases s.hctx <;> cases s.seqActive <;> cases s.due .ch0 <;> cases s.due .ch1 <;> decide

/-- Every transition is one of these (R50). A proof about `step` or `stepWith cfg` cites it as it stands: both are transitions. -/
theorem transition_cases {s t : State} (h : transition ex cfg s = .next t) :
    (∃ l rest, s.inputs = .line l :: rest ∧ t = { s with swN := l, inputs := rest }) ∨
    (∃ rest, s.inputs = .powerOn :: rest ∧ t = powerOn cfg { s with inputs := rest }) ∨
    (∃ ev rest c, s.inputs = .event ev :: rest ∧ decodeEvent ev = some c ∧
      takeFiring (ex c.callback) c { s with inputs := rest } = .next t) ∨
    (∃ w rest, s.inputs = .command w :: rest ∧ s.hostMayStep = true ∧ giveCommand ex w { s with inputs := rest } = .next t) ∨
    (∃ u, (u = s ∨ ∃ rest, s.inputs = .wait :: rest ∧ u = { s with inputs := rest }) ∧ OwnStep ex cfg u t) := by
  cases hi : s.inputs with
  | nil => exact .inr (.inr (.inr (.inr ⟨s, .inl rfl, ownStep_cases (transition_nil hi ▸ h)⟩)))
  | cons e rest =>
    cases e with
    | line l => exact .inl ⟨l, rest, rfl, (Host.Outcome.next.inj ((transition_line hi).symm.trans h)).symm⟩
    | powerOn => exact .inr (.inl ⟨rest, rfl, (Host.Outcome.next.inj ((transition_powerOn hi).symm.trans h)).symm⟩)
    | event ev =>
      rw [transition_event hi, deliverEvent] at h
      cases hd : decodeEvent ev with
      | none => rw [hd] at h; cases h
      | some c => rw [hd] at h; exact .inr (.inr (.inl ⟨ev, rest, c, rfl, hd, h⟩))
    | command w =>
      cases hm : s.hostMayStep with
      | true => exact .inr (.inr (.inr (.inl ⟨w, rest, rfl, rfl, transition_command hi hm ▸ h⟩)))
      | false => exact .inr (.inr (.inr (.inr ⟨s, .inl rfl, ownStep_cases (transition_blocked hi hm ▸ h)⟩)))
    | wait => exact .inr (.inr (.inr (.inr ⟨_, .inr ⟨rest, rfl, rfl⟩, ownStep_cases (transition_wait hi ▸ h)⟩)))

/-! ## Firings and commands -/

/-- R164, R166, R195, R196, R201: what a firing does. -/
theorem takeFiring_cases {f : State → Outcome} {c : Channel} {s t : State} (h : takeFiring f c s = .next t) :
    (((s.chan c).en = false ∨ (s.chan c).pend = true) ∧ t = s) ∨
    ((s.chan c).en = true ∧ (s.chan c).pend = false ∧ s.hctx = .none ∧ f s = .next t) ∨
    ((s.chan c).en = true ∧ (s.chan c).pend = false ∧ s.hctx = .refresh ∧ t = latch c s) := by
  unfold takeFiring at h
  cases he : (s.chan c).en
  · simp only [he, Bool.false_eq_true, if_false, Host.Outcome.next.injEq] at h
    exact .inl ⟨.inl rfl, h.symm⟩
  · cases hp : (s.chan c).pend
    · simp only [he, hp, Bool.false_eq_true, if_false, if_true] at h
      cases hh : s.hctx <;> rw [hh] at h
      · exact .inr (.inl ⟨rfl, rfl, rfl, h⟩)
      · exact .inr (.inr ⟨rfl, rfl, rfl, by simpa using h.symm⟩)
    · simp only [he, hp, if_true, Host.Outcome.next.injEq] at h
      exact .inl ⟨.inr rfl, h.symm⟩

/-- R195: a firing in force with its latch clear and no handler running runs its callback. -/
theorem takeFiring_runs {f : State → Outcome} {c : Channel} {s : State} (he : (s.chan c).en = true)
    (hp : (s.chan c).pend = false) (hh : s.hctx = .none) : takeFiring f c s = f s := by
  unfold takeFiring
  rw [he, hp, hh]
  rfl

/-- R201: a firing that finds its latch set is lost. -/
theorem takeFiring_lost {f : State → Outcome} {c : Channel} {s : State} (h : (s.chan c).pend = true) :
    takeFiring f c s = .next s := by
  unfold takeFiring
  cases (s.chan c).en <;> simp [h]

/-- A word given to the port runs its command or is refused (R60, R67). -/
theorem giveCommand_cases {w : CommandWord} {s t : State} (h : giveCommand ex w s = .next t) :
    (∃ i, decodeCommand w = .ok i ∧ ex i s = .next t) ∨ (∃ r, decodeCommand w = .error r ∧ t = refuse r s) := by
  unfold giveCommand at h
  cases hd : decodeCommand w with
  | ok i => rw [hd] at h; exact .inl ⟨i, rfl, h⟩
  | error r => rw [hd] at h; exact .inr ⟨r, rfl, by simpa using h.symm⟩

/-- A command word never decodes to a callback (R62). -/
theorem decodeCommand_isCommand {w : CommandWord} {i : Instr} (h : decodeCommand w = .ok i) : i.isCommand = true := by
  have hz : ∀ (b : Bool) (j : Instr), j.isCommand = true → ∀ i, whenZero b j = .ok i → i.isCommand = true := by
    intro b j hj i hi
    cases b <;> simp [whenZero] at hi
    exact hi ▸ hj
  have hite : ∀ (p : Prop) [Decidable p] (x y : Except RefuseCode Instr),
      (∀ i, x = .ok i → i.isCommand = true) → (∀ i, y = .ok i → i.isCommand = true) →
      ∀ i, (if p then x else y) = .ok i → i.isCommand = true := by
    intro p _ x y hx hy i hi
    split_ifs at hi
    · exact hx i hi
    · exact hy i hi
  refine (?_ : ∀ i, decodeCommand w = .ok i → i.isCommand = true) i h
  unfold decodeCommand
  iterate 12 refine hite _ _ _ (hz _ _ rfl) ?_
  intro i hi
  cases hi

end Sys2Proof.Machine
end

