-- ==== Sys2Proof/Laws/Invariant.lean ====
section
/-! SUPPORT. Each operation keeps the invariant of Safety.lean, one lemma an operation. -/

namespace Sys2Proof.Machine

theorem inv_respond {s : State} (d) (h : s.Inv) : (respond d s).Inv :=
  ⟨h.clock, h.alarm, h.cursor, h.rot, h.tlen, h.text, h.fault, h.blanked, h.selected, h.handler,
    h.foreground, h.channel0, h.channel1, h.period0, h.placed⟩
theorem inv_refuse {s : State} (r) (h : s.Inv) : (refuse r s).Inv := by
  refine ⟨h.clock, h.alarm, h.cursor, h.rot, h.tlen, h.text, ?_, h.blanked, h.selected, h.handler, h.foreground, h.channel0, h.channel1, h.period0, h.placed⟩
  simp only [refuse_faultReg]
  split_ifs
  · cases r <;> decide
  · exact h.fault
theorem inv_encout {s : State} (d) (h : s.Inv) : (encoderResult d s).Inv :=
  ⟨h.clock, h.alarm, h.cursor, h.rot, h.tlen, h.text, h.fault, h.blanked, h.selected, h.handler,
    h.foreground, h.channel0, h.channel1, h.period0, h.placed⟩
theorem inv_inputs {s : State} (d) (h : s.Inv) : State.Inv {s with inputs := d} :=
  ⟨h.clock, h.alarm, h.cursor, h.rot, h.tlen, h.text, h.fault, h.blanked, h.selected, h.handler,
    h.foreground, h.channel0, h.channel1, h.period0, h.placed⟩
theorem inv_choice {s : State} (d) (h : s.Inv) : State.Inv {s with choice := d} :=
  ⟨h.clock, h.alarm, h.cursor, h.rot, h.tlen, h.text, h.fault, h.blanked, h.selected, h.handler,
    h.foreground, h.channel0, h.channel1, h.period0, h.placed⟩

theorem inv_regenerate {cfg : Config} (hc : LegalConfig cfg) {s : State} (h : s.Inv) : (regenerate cfg s).Inv :=
  ⟨h.clock, h.alarm, by simp, h.rot, (tlen_speak hc _ _ _).le.trans (hc.speak_fits _ _ _),
    regenerate_wf _ _ (hc.speak_fits _ _ _), h.fault, h.blanked, h.selected, h.handler, h.foreground, h.channel0, h.channel1, h.period0, h.placed⟩

theorem inv_setTime {s : State} {t} (h : s.Inv) (ht : t.legal = true) : (s.setTime t).Inv :=
  ⟨ht, h.alarm, h.cursor, h.rot, h.tlen, h.text, h.fault, h.blanked, h.selected, h.handler,
    h.foreground, h.channel0, h.channel1, h.period0, h.placed⟩
theorem inv_blink {s : State} (d) (h : s.Inv) : State.Inv {s with blink := d} :=
  ⟨h.clock, h.alarm, h.cursor, h.rot, h.tlen, h.text, h.fault, h.blanked, h.selected, h.handler,
    h.foreground, h.channel0, h.channel1, h.period0, h.placed⟩
theorem inv_bright_buzz {s : State} (d e) (h : s.Inv) : State.Inv {s with bright := d, buzz := e} :=
  ⟨h.clock, h.alarm, h.cursor, h.rot, h.tlen, h.text, h.fault, h.blanked, h.selected, h.handler,
    h.foreground, h.channel0, h.channel1, h.period0, h.placed⟩

theorem inv_tick {cfg : Config} (hc : LegalConfig cfg) {s : State} (h : s.Inv) : (tick cfg s).Inv := by
  unfold tick
  have h1 := inv_blink (!s.blink) (inv_setTime h (cascade_legal h.clock))
  simp only
  apply inv_bright_buzz
  split_ifs
  · exact inv_regenerate hc h1
  · exact h1

theorem inv_regWrite {s : State} {r v} (h : s.Inv) (hr : regLegal r v = true) : (regWrite r v s).Inv := by
  have hc := h.clock
  have ha := h.alarm
  simp only [TimeOfDay.legal, Bool.and_eq_true] at hc ha
  obtain ⟨⟨c1,c2⟩,c3⟩ := hc
  obtain ⟨⟨a1,a2⟩,a3⟩ := ha
  cases r <;> simp only [regLegal, decide_eq_true_eq, Bool.false_eq_true] at hr <;>
   refine ⟨?_, ?_, ?_, ?_, ?_, h.text, h.fault, h.blanked, h.selected, h.handler,
    h.foreground, h.channel0, h.channel1, h.period0, h.placed⟩ <;>
   first | exact hr | exact h.clock | exact h.alarm | exact h.cursor | exact h.rot | exact h.tlen |
    (simp only [TimeOfDay.legal, regWrite, Bool.and_eq_true]; first | exact ⟨⟨hr,c2⟩,c3⟩ | exact ⟨⟨c1,hr⟩,c3⟩ | exact ⟨⟨c1,c2⟩,hr⟩| exact ⟨⟨hr,a2⟩,a3⟩ | exact ⟨⟨a1,hr⟩,a3⟩ | exact ⟨⟨a1,a2⟩,hr⟩)

theorem inv_startPass {s : State} (n) (h : s.Inv) (hm : s.hctx = .none) (ha : s.seqActive = false) (he : s.chan1.en = false) (hp : s.chan0.pend = false) : (startPass .foreground n s).Inv := by
  refine ⟨h.clock, h.alarm, h.cursor, h.rot, h.tlen, h.text, h.fault, fun _ => h.blanked ?_, ?_, ?_, ?_, h.channel0, h.channel1, h.period0, ?_⟩
  · simp [State.dwelling, ha]
  · simp [State.dwelling]
  · simp [hm]
  · simp [he, hp]
  · simp [State.SeqPlaced]

theorem inv_enterRefresh {cfg : Config} {s : State} (h : s.Inv) (ha : s.seqActive = false) : (enterRefresh cfg s).Inv := by
  refine ⟨h.clock, h.alarm, h.cursor, h.rot, h.tlen, h.text, h.fault, fun _ => h.blanked ?_, ?_, ?_, ?_, h.channel0, h.channel1, h.period0, ?_⟩
  · simp [State.dwelling, ha]
  · simp [State.dwelling, enterRefresh]
  · simp [enterRefresh]
  · simp [enterRefresh]
  · simp [State.SeqPlaced, enterRefresh]

theorem inv_setChan0 {s : State} {t} (h : s.Inv) (ht : t.legal = true) (hp : t.reg = true → t.period = tickPeriodMs) (hq : s.seqActive = true → s.seqCtx = .foreground → t.pend = false) : State.Inv {s with chan0 := t} :=
  ⟨h.clock, h.alarm, h.cursor, h.rot, h.tlen, h.text, h.fault, h.blanked, h.selected, h.handler, fun a b => ⟨(h.foreground a b).1, hq a b⟩, ht, h.channel1, hp, h.placed⟩
theorem inv_setChan1 {s : State} {t} (h : s.Inv) (ht : t.legal = true) (hq : s.seqActive = true → s.seqCtx = .foreground → t.en = false) : State.Inv {s with chan1 := t} :=
  ⟨h.clock, h.alarm, h.cursor, h.rot, h.tlen, h.text, h.fault, h.blanked, h.selected, h.handler, fun a b => ⟨hq a b, (h.foreground a b).2⟩, h.channel0, ht, h.period0, h.placed⟩

theorem pend_false {t : TimerChannel} (h : t.legal = true) (hd : (t.pend && t.en) = false) : t.pend = false := by
  obtain ⟨a,b,c,d⟩ := t
  revert h hd
  cases a <;> cases b <;> cases d <;> simp [TimerChannel.legal]

theorem inv_command {cfg : Config} (hcfg : LegalConfig cfg) {s t : State} {i : Instr} (h : s.Inv) (hc : i.isCommand = true)
    (hm : s.hostMayStep = true) (he : execWith cfg i s = .next t) : t.Inv := by
  obtain ⟨m1, m2, m3, m4⟩ := hostMayStep_iff.1 hm
  have na : s.seqActive = true → s.seqCtx = .foreground → False := by simp [m2]
  cases i <;> simp only [Instr.isCommand, Bool.false_eq_true] at hc <;> simp only [execWith] at he
  case encd d =>
    unfold encdWith at he; split at he <;> cases he
    · exact inv_encout _ h
    · exact inv_refuse _ h
  case encc d => cases he; exact inv_encout _ h
  case encp d =>
    unfold encpWith at he; split at he <;> cases he
    · exact inv_encout _ h
    · exact inv_refuse _ h
  case render n =>
    unfold execRender at he; split at he <;> cases he
    · exact inv_refuse _ h
    · exact inv_startPass n h m1 m2 (Bool.eq_false_iff.2 ‹¬ s.chan1.en = true›) (pend_false h.channel0 m3)
  case treg ch ms =>
    unfold execTreg at he; cases hco : channelOf ch with
    | none => rw [hco] at he; cases he; exact inv_refuse _ h
    | some c =>
      simp only [hco] at he
      split at he <;> cases he
      · next hp =>
        apply inv_respond
        cases c
        · simp [periodLegal] at hp
          exact inv_setChan0 h (by simp [TimerChannel.legal, hp]) (by simp [hp]) (by simp)
        · simp [periodLegal] at hp
          exact inv_setChan1 h (by simp [TimerChannel.legal, hp]) (fun a b => (na a b).elim)
      · exact inv_refuse _ h
  case trev ch =>
    unfold execTrev at he; cases hco : channelOf ch with
    | none => rw [hco] at he; cases he; exact inv_refuse _ h
    | some c =>
      simp only [hco] at he
      split at he <;> cases he
      · next hp =>
        apply inv_respond
        have h0 := h.channel0; have h1 := h.channel1
        cases c
        · exact inv_setChan0 h (by simp [TimerChannel.legal] at h0 ⊢; exact h0.2) (h.period0) (by simp)
        · exact inv_setChan1 h (by simp [TimerChannel.legal] at h1 ⊢; exact h1.2) (by simp)
      · exact inv_refuse _ h
  case trst ch =>
    unfold execTrst at he; cases hco : channelOf ch with
    | none => rw [hco] at he; cases he; exact inv_refuse _ h
    | some c =>
      simp only [hco] at he
      split at he <;> cases he
      · next hp =>
        apply inv_respond
        have h0 := h.channel0; have h1 := h.channel1
        cases c
        · exact inv_setChan0 h (by simp [TimerChannel.legal] at h0 hp ⊢; simp [hp] at h0 ⊢; exact h0.2) (h.period0) (fun a b => (na a b).elim)
        · exact inv_setChan1 h (by simp [TimerChannel.legal] at h1 hp ⊢; simp [hp] at h1 ⊢; exact h1.2) (fun a b => (na a b).elim)
      · exact inv_refuse _ h
  case wr r v =>
    unfold execWr at he; split at he
    · cases he; exact inv_refuse _ h
    · split at he
      · cases he; exact inv_refuse _ h
      · split at he <;> cases he
        · exact inv_respond _ (inv_regWrite h ‹_›)
        · exact inv_refuse _ h
  case rd r =>
    unfold execRd at he; split at he <;> cases he
    · exact inv_refuse _ h
    · exact inv_respond _ h
  case wrt j c =>
    unfold execWrt at he; split at he <;> cases he
    · refine inv_respond _ ⟨h.clock, h.alarm, h.cursor, h.rot, h.tlen, Memory.wf_write h.text (by simpa [textIndexLegal] using ‹textIndexLegal j = true›) _, h.fault, h.blanked, h.selected, h.handler, h.foreground, h.channel0, h.channel1, h.period0, h.placed⟩
    · exact inv_refuse _ h
  case rdt j =>
    unfold execRdt at he; split at he <;> cases he
    · exact inv_respond _ h
    · exact inv_refuse _ h
  case regen => cases he; exact inv_respond _ (inv_regenerate hcfg h)

theorem clear_legal {t : TimerChannel} (h : t.legal = true) : TimerChannel.legal {t with pend := false} = true := by
  obtain ⟨a,b,c,d⟩ := t
  revert h
  cases a <;> cases b <;> cases d <;> simp [TimerChannel.legal]

theorem inv_clearPending {s : State} (c) (h : s.Inv) : (clearPending c s).Inv := by
  cases c
  · exact inv_setChan0 h (clear_legal h.channel0) h.period0 (by simp)
  · exact inv_setChan1 h (clear_legal h.channel1) (fun a b => (h.foreground a b).1)

theorem inv_callback {cfg : Config} (hcfg : LegalConfig cfg) {s t : State} {c : Channel} (h : s.Inv) (hn : s.hctx = .none)
    (he : (s.chan c).en = true) (hx : execWith cfg c.callback s = .next t) : t.Inv := by
  cases c
  · simp only [Channel.callback, execWith, tickWith] at hx
    split at hx <;> cases hx
    exact inv_tick hcfg h
  · simp only [Channel.callback, execWith, refreshWith] at hx
    cases hx
    apply inv_enterRefresh h
    by_contra ha
    have ha : s.seqActive = true := by simpa using ha
    cases hc : s.seqCtx
    · have := (h.foreground ha hc).1; simp_all
    · have := h.handler.2 ⟨ha, hc⟩; simp_all

theorem inv_latch {s : State} (c) (h : s.Inv) (he : (s.chan c).en = true) (hr : s.hctx = .refresh): (latch c s).Inv := by
  have hq := h.handler.1 hr
  cases c
  · refine inv_setChan0 h ?_ h.period0 (by simp [hq])
    have := h.channel0
    simp [TimerChannel.legal] at this he ⊢; simp [he] at this ⊢; exact this
  · refine inv_setChan1 h ?_ (by simp [hq])
    have := h.channel1
    simp [TimerChannel.legal] at this he ⊢; simp [he] at this ⊢; exact this

theorem inv_nextCycle {s : State} (h : s.Inv) (hl : s.seqRep.toNat < s.seqN.toNat) (hd : s.dwelling = false) : (nextCycle s).Inv := by
  refine ⟨h.clock, h.alarm, h.cursor, h.rot, h.tlen, h.text, h.fault, fun _ => h.blanked hd, ?_, h.handler, h.foreground, h.channel0, h.channel1, h.period0, fun _ => ?_⟩
  · simp [State.dwelling, nextCycle]
  · simp only [State.SeqPlaced, nextCycle]
    have := s.seqN.isLt
    rw [BitVec.toNat_add]
    simp
    omega

theorem inv_scrollAdvance {s : State} (h : s.Inv) : (scrollAdvance s).Inv := by
  unfold scrollAdvance
  have h1 := h.rot
  have h2 := h.cursor
  split_ifs with a b
  · exact ⟨h.clock, h.alarm, by simp, by simp, h.tlen, h.text, h.fault, h.blanked, h.selected, h.handler,
    h.foreground, h.channel0, h.channel1, h.period0, h.placed⟩
  · refine ⟨h.clock, h.alarm, ?_, by simp, h.tlen, h.text, h.fault, h.blanked, h.selected, h.handler,
    h.foreground, h.channel0, h.channel1, h.period0, h.placed⟩
    have := h.tlen
    simp only [BitVec.toNat_add, BitVec.ofNat_eq_ofNat, BitVec.toNat_ofNat]
    simp only [textMax, window] at *
    omega
  · refine ⟨h.clock, h.alarm, h.cursor, ?_, h.tlen, h.text, h.fault, h.blanked, h.selected, h.handler,
    h.foreground, h.channel0, h.channel1, h.period0, h.placed⟩
    simp only [BitVec.toNat_add, BitVec.ofNat_eq_ofNat, BitVec.toNat_ofNat]
    simp only [scrollDiv] at *
    omega

theorem inv_complete {s : State} (h : s.Inv) (hph : s.seqPhase = .scroll) : (complete s).Inv := by
  have hd : s.dwelling = false := by simp [State.dwelling, hph]
  unfold complete
  split
  · next hc =>
    apply inv_respond
    refine ⟨h.clock, h.alarm, h.cursor, h.rot, h.tlen, h.text, h.fault, fun _ => h.blanked hd, by simp [State.dwelling], ?_, by simp, h.channel0, h.channel1, h.period0, by simp⟩
    have := h.handler
    simp [hc] at this
    simpa using this
  · next hc =>
    exact ⟨h.clock, h.alarm, h.cursor, h.rot, h.tlen, h.text, h.fault, fun _ => h.blanked hd, by simp [State.dwelling], by simp, by simp, h.channel0, h.channel1, h.period0, by simp⟩

theorem inv_microStep {cfg : Config} {s t : State} (h : s.Inv) (ha : s.seqActive = true) (hx : microStep cfg s = .next t) : t.Inv := by
  have hp := h.placed ha
  unfold microStep at hx
  split at hx
  · next hph =>
    have hd : s.dwelling = false := by simp [State.dwelling, hph]
    simp [State.SeqPlaced, hph] at hp
    unfold driveStep at hx
    split at hx
    · next heq =>
      cases hx
      exact ⟨h.clock, h.alarm, h.cursor, h.rot, h.tlen, h.text, h.fault, fun _ => h.blanked hd, by simp [State.dwelling], h.handler, h.foreground, h.channel0, h.channel1, h.period0, fun _ => ⟨heq, hp.2 heq⟩⟩
    · next hne =>
      split at hx <;> cases hx
      refine ⟨h.clock, h.alarm, h.cursor, h.rot, h.tlen, h.text, h.fault, by simp [State.dwelling, drive, ha], fun _ => rfl, h.handler, h.foreground, h.channel0, h.channel1, h.period0, fun _ => ?_⟩
      simp [State.SeqPlaced, drive]
      have : s.seqRep.toNat ≠ s.seqN.toNat := fun e => hne (BitVec.eq_of_toNat_eq e)
      omega
  · next hph =>
    simp [State.SeqPlaced, hph] at hp
    cases hx
    unfold blankStep
    split
    · next p hq =>
      refine ⟨h.clock, h.alarm, h.cursor, h.rot, h.tlen, h.text, h.fault, by simp [blankAll], by simp [State.dwelling], h.handler, h.foreground, h.channel0, h.channel1, h.period0, fun _ => ?_⟩
      simp [State.SeqPlaced, blankAll]
      exact ⟨hp.le, fun e => absurd (congrArg BitVec.toNat e) (by omega)⟩
    · next hq =>
      refine ⟨h.clock, h.alarm, h.cursor, h.rot, h.tlen, h.text, h.fault, by simp [blankAll], by simp [State.dwelling], h.handler, h.foreground, h.channel0, h.channel1, h.period0, fun _ => ?_⟩
      simp [State.SeqPlaced, blankAll]
      refine ⟨hp, ?_⟩
      cases hs : s.seqPos <;> simp [hs, Position.next?] at hq ⊢
  · next hph =>
    have hd : s.dwelling = false := by simp [State.dwelling, hph]
    simp [State.SeqPlaced, hph] at hp
    cases hx
    unfold sirenChkStep
    split
    · refine ⟨h.clock, h.alarm, h.cursor, h.rot, h.tlen, h.text, h.fault, fun _ => h.blanked hd, by simp [State.dwelling], h.handler, h.foreground, h.channel0, h.channel1, h.period0, fun _ => ?_⟩
      simpa [State.SeqPlaced, siren] using hp
    · exact inv_nextCycle h hp.1 hd
  · next hph =>
    have hd : s.dwelling = false := by simp [State.dwelling, hph]
    simp [State.SeqPlaced, hph] at hp
    cases hx
    unfold sirenClrStep
    refine inv_nextCycle ⟨h.clock, h.alarm, h.cursor, h.rot, h.tlen, h.text, h.fault, h.blanked, h.selected, h.handler,
    h.foreground, h.channel0, h.channel1, h.period0, h.placed⟩ hp.1 hd
  · next hph =>
    cases hx
    unfold scrollStep
    split
    · exact inv_complete h hph
    · refine inv_complete (inv_scrollAdvance h) ?_
      unfold scrollAdvance; split <;> exact hph

theorem inv_ownStep {cfg : Config} (hcfg : LegalConfig cfg) {u t : State} (h : u.Inv) (ho : OwnStep (execWith cfg) cfg u t) : t.Inv := by
  rcases ho with ⟨c, v, h1, h2, h3, h4⟩ | ⟨h1, h2, h3⟩ | ⟨h1, rfl⟩
  · have hv : v.Inv ∧ v.hctx = .none ∧ (v.chan c).en = true := by
      have : (u.chan c).en = true := by simp [State.due] at h2; exact h2.2
      rcases h3 with rfl | rfl
      · exact ⟨h, h1, this⟩
      · exact ⟨inv_choice _ h, h1, by cases c <;> exact this⟩
    refine inv_callback hcfg (inv_clearPending c hv.1) ?_ ?_ h4
    · cases c <;> exact hv.2.1
    · cases c <;> exact hv.2.2
  · exact inv_microStep h h1 h3
  · exact h

end Sys2Proof.Machine
end

