-- ==== Sys2Proof/Laws/PerInstr.lean ====
section
/-! SUPPORT. The per-instruction family RowShape: the word of a well-formed instruction matches its own row of the table of R66 and carries
the mnemonic of that row; a callback has the event code of its channel (R62). One lemma per constructor. -/

namespace Sys2Proof.Laws.RowShape

/-- The row of the table an instruction belongs to: mnemonic, match and mask; none for a callback. -/
def row : Instr → Option TableRow
  | .encd _ => some ⟨"ENCD", 0x01000000, 0xFF00FFFF⟩
  | .encc _ => some ⟨"ENCC", 0x02000000, 0xFF00FFFF⟩
  | .encp _ => some ⟨"ENCP", 0x03000000, 0xFF00FFFF⟩
  | .render _ => some ⟨"RENDER", 0x10000000, 0xFFFF0000⟩
  | .treg _ _ => some ⟨"TREG", 0x20000000, 0xFFFE0000⟩
  | .trev _ => some ⟨"TREV", 0x21000000, 0xFFFEFFFF⟩
  | .trst _ => some ⟨"TRST", 0x22000000, 0xFFFEFFFF⟩
  | .wr _ _ => some ⟨"WR", 0x30000000, 0xFF00FF00⟩
  | .rd _ => some ⟨"RD", 0x31000000, 0xFF00FFFF⟩
  | .wrt _ _ => some ⟨"WRT", 0x32000000, 0xFF00FF00⟩
  | .rdt _ => some ⟨"RDT", 0x33000000, 0xFF00FFFF⟩
  | .regen => some ⟨"REGEN", 0x40000000, 0xFFFFFFFF⟩
  | .tick => none
  | .refresh => none

/-- The word of a well-formed instruction lies in the instruction's own row, and that row is one of the table. -/
def Statement (i : Instr) : Prop :=
  i.wellFormed = true →
    match row i, encode i with
    | some r, .command w => r ∈ commandRows ∧ r.mnemonic = i.mnemonic ∧ r.hits w = true
    | none, .event ev => ev.toNat < 2 ∧ i.isCommand = false
    | some _, .event _ => False
    | none, .command _ => False

/-- A word under a mask, field by field. -/
theorem hits_iff (m : String) (op a : Byte) (b : Half) (opv opm av am : Byte) (bv bm : Half) :
    (TableRow.mk m (commandWord opv av bv) (commandWord opm am bm)).hits (commandWord op a b) = true ↔
      op &&& opm = opv ∧ a &&& am = av ∧ b &&& bm = bv := by
  have hand : commandWord op a b &&& commandWord opm am bm = commandWord (op &&& opm) (a &&& am) (b &&& bm) := by
    have h1 := @BitVec.and_append 8 8 op opm a am
    have h2 := @BitVec.and_append 16 16 (op ++ a) (opm ++ am) b bm
    rw [h1] at h2
    exact h2
  simp only [TableRow.hits, beq_iff_eq, hand]
  constructor
  · intro h
    refine ⟨?_, ?_, ?_⟩
    · simpa using congrArg fieldOp h
    · simpa using congrArg fieldA h
    · simpa using congrArg fieldB h
  · rintro ⟨h1, h2, h3⟩
    rw [h1, h2, h3]

/-- A channel number is free of must-be-zero bits. -/
theorem channel_mask {ch : Byte} (h : channelWellFormed ch = true) : ch &&& 0xFE = 0 := by
  revert ch
  decide

/-- A value operand is free of must-be-zero bits. -/
theorem value_mask (v : Byte) : valueOperand v &&& 0xFF00 = 0 := by
  revert v
  decide

theorem encd (d : Byte) : Statement (.encd d) := fun _ =>
  ⟨by decide, rfl, (hits_iff _ _ _ _ 0x01 0xFF 0x00 0x00 0 0xFFFF).2 ⟨by decide, by simp, by decide⟩⟩

theorem encc (c : Byte) : Statement (.encc c) := fun _ =>
  ⟨by decide, rfl, (hits_iff _ _ _ _ 0x02 0xFF 0x00 0x00 0 0xFFFF).2 ⟨by decide, by simp, by decide⟩⟩

theorem encp (g : Byte) : Statement (.encp g) := fun _ =>
  ⟨by decide, rfl, (hits_iff _ _ _ _ 0x03 0xFF 0x00 0x00 0 0xFFFF).2 ⟨by decide, by simp, by decide⟩⟩

theorem render (n : Half) : Statement (.render n) := fun _ =>
  ⟨by decide, rfl, (hits_iff _ _ _ _ 0x10 0xFF 0x00 0xFF 0 0).2 ⟨by decide, by decide, by simp⟩⟩

theorem treg (ch : Byte) (ms : Half) : Statement (.treg ch ms) := fun h =>
  ⟨by decide, rfl, (hits_iff _ _ _ _ 0x20 0xFF 0x00 0xFE 0 0).2 ⟨by decide, channel_mask h, by simp⟩⟩

theorem trev (ch : Byte) : Statement (.trev ch) := fun h =>
  ⟨by decide, rfl, (hits_iff _ _ _ _ 0x21 0xFF 0x00 0xFE 0 0xFFFF).2 ⟨by decide, channel_mask h, by decide⟩⟩

theorem trst (ch : Byte) : Statement (.trst ch) := fun h =>
  ⟨by decide, rfl, (hits_iff _ _ _ _ 0x22 0xFF 0x00 0xFE 0 0xFFFF).2 ⟨by decide, channel_mask h, by decide⟩⟩

theorem wr (r v : Byte) : Statement (.wr r v) := fun _ =>
  ⟨by decide, rfl, (hits_iff _ _ _ _ 0x30 0xFF 0x00 0x00 0 0xFF00).2 ⟨by decide, by simp, value_mask v⟩⟩

theorem rd (r : Byte) : Statement (.rd r) := fun _ =>
  ⟨by decide, rfl, (hits_iff _ _ _ _ 0x31 0xFF 0x00 0x00 0 0xFFFF).2 ⟨by decide, by simp, by decide⟩⟩

theorem wrt (j c : Byte) : Statement (.wrt j c) := fun _ =>
  ⟨by decide, rfl, (hits_iff _ _ _ _ 0x32 0xFF 0x00 0x00 0 0xFF00).2 ⟨by decide, by simp, value_mask c⟩⟩

theorem rdt (j : Byte) : Statement (.rdt j) := fun _ =>
  ⟨by decide, rfl, (hits_iff _ _ _ _ 0x33 0xFF 0x00 0x00 0 0xFFFF).2 ⟨by decide, by simp, by decide⟩⟩

theorem regen : Statement .regen := fun _ => ⟨by decide, rfl, by decide⟩

theorem tick : Statement .tick := fun _ => ⟨by decide, rfl⟩

theorem refresh : Statement .refresh := fun _ => ⟨by decide, rfl⟩

end Sys2Proof.Laws.RowShape
end

