-- ==== Sys2Proof/Machine/Assembler.lean ====
section
/-! DEFINITION. The written form of a run (30_encoding.md R69), the pseudo-instructions (R70) and the boot sequence
(70_reset_and_hazards.md R224). A listing assembles to a schedule of inputs; no rule of the block depends on this file. -/

namespace Sys2Proof.Machine

/-! ## Pseudo-instructions (R70) -/

/-- The pseudo-instructions of R70. -/
inductive Pseudo where
  | hold (n : Half)
  | textOn
  | textOff
  | setClk (h m s : Byte) (mer : Meridiem)
  | setAlm (h m s : Byte) (mer : Meridiem)
  | loadText (str : List Byte)
  | enterSet
  | leaveSet
deriving DecidableEq, Repr

/-- R33: the number of a register, its place in the map. -/
def regNumber (r : Reg) : Byte :=
  match r with
  | .hours => 0x00
  | .minutes => 0x01
  | .seconds => 0x02
  | .meridiem => 0x03
  | .blink => 0x04
  | .aHours => 0x05
  | .aMinutes => 0x06
  | .aSeconds => 0x07
  | .aMeridiem => 0x08
  | .bright => 0x09
  | .pmode => 0x0A
  | .dmode => 0x0B
  | .cursor => 0x0C
  | .rot => 0x0D
  | .tlen => 0x0E
  | .buzz => 0x0F
  | .ringing => 0x10
  | .switch => 0x11
  | .seg => 0x12
  | .pos => 0x13
  | .tstat0 => 0x14
  | .tstat1 => 0x15
  | .fault => 0x16
  | .encout => 0x17

/-- `WR` of a register by name. -/
def writeReg (r : Reg) (v : Byte) : Instr := .wr (regNumber r) v

/-- The characters of LOADTEXT laid down from index `base` on (R70). -/
def storeText : Nat → List Byte → List Instr
  | _, [] => []
  | base, c :: cs => .wrt (BitVec.ofNat 8 base) c :: storeText (base + 1) cs

/-- R70: the commands a pseudo-instruction stands for, in their order. -/
def Pseudo.expand : Pseudo → List Instr
  | .hold n => [.render n]
  | .textOn => [writeReg .dmode 1]
  | .textOff => [writeReg .dmode 0]
  | .setClk h m s mer =>
    [writeReg .hours h, writeReg .minutes m, writeReg .seconds s, writeReg .meridiem (meridiemByte mer)]
  | .setAlm h m s mer =>
    [writeReg .aHours h, writeReg .aMinutes m, writeReg .aSeconds s, writeReg .aMeridiem (meridiemByte mer)]
  | .loadText str => storeText 0 str ++ [writeReg .tlen (BitVec.ofNat 8 str.length), writeReg .cursor 0]
  | .enterSet => [.trev 1]
  | .leaveSet => [.trst 1]

/-- R224 (2) to (5): set the time and the alarm, regenerate the text, start timekeeping, start the live display. -/
def bootSequence (cfg : Config) (now alarm : TimeOfDay) : List Instr :=
  (Pseudo.setClk now.hours now.minutes now.seconds now.meridiem).expand
    ++ (Pseudo.setAlm alarm.hours alarm.minutes alarm.seconds alarm.meridiem).expand
    ++ [.regen, .treg 0 tickPeriodMs, .treg 1 cfg.refreshPeriodMs]

/-- An operation as an input of the block: a command of the host, or an event code of a channel (R60, R62). -/
def inputOf (i : Instr) : Input :=
  match encode i with
  | .command w => .command w
  | .event ev => .event ev

/-! ## Text (R69) -/

/-- The apostrophe, which quotes a character operand. -/
def quoteChar : Char := Char.ofNat 39
/-- The double quote around the operand of LOADTEXT. -/
def stringQuote : Char := Char.ofNat 34

/-- Where a scan stands: outside any quotation, inside a string, or so many characters into a quoted character. -/
inductive Quoting where
  | outside
  | inString
  | charOpen
  | charHeld
deriving DecidableEq, Repr

/-- The quotation after one more character. -/
def Quoting.after (q : Quoting) (c : Char) : Quoting :=
  match q with
  | .outside => if c = stringQuote then .inString else if c = quoteChar then .charOpen else .outside
  | .inString => if c = stringQuote then .outside else .inString
  | .charOpen => .charHeld
  | .charHeld => .outside

/-- A text cut at every `sep` that stands outside a quotation; `acc` is the piece so far, reversed. -/
def cutAt (sep : Char) : Quoting → List Char → List Char → List (List Char)
  | _, acc, [] => [acc.reverse]
  | q, acc, c :: cs =>
    if q = .outside ∧ c = sep then acc.reverse :: cutAt sep .outside [] cs else cutAt sep (q.after c) (c :: acc) cs

/-- The lines of a listing; a quotation never runs over the end of a line. -/
def linesOf : List Char → List Char → List (List Char)
  | acc, [] => [acc.reverse]
  | acc, c :: cs => if c = '\n' then acc.reverse :: linesOf [] cs else linesOf (c :: acc) cs

/-- A blank between the parts of a line. -/
def isBlank (c : Char) : Bool := c == ' ' || c == '\t' || c == '\r'

/-- Blanks cut off both ends. -/
def trim (cs : List Char) : List Char := ((cs.dropWhile isBlank).reverse.dropWhile isBlank).reverse

/-- The value of a digit in base 10 or 16. -/
def digitValue (base : Nat) (c : Char) : Option Nat :=
  let n := c.toNat
  let d :=
    if 48 ≤ n ∧ n ≤ 57 then n - 48
    else if 65 ≤ n ∧ n ≤ 70 then n - 55
    else if 97 ≤ n ∧ n ≤ 102 then n - 87
    else base
  if d < base then some d else none

/-- A run of digits, most significant first. -/
def digitsValue (base : Nat) : Nat → List Char → Option Nat
  | acc, [] => some acc
  | acc, c :: cs => (digitValue base c).bind fun d => digitsValue base (acc * base + d) cs

/-- R69: a number is decimal or `0x` hexadecimal. -/
def numberOf : List Char → Option Nat
  | [] => none
  | '0' :: 'x' :: c :: cs => digitsValue 16 0 (c :: cs)
  | c :: cs => digitsValue 10 0 (c :: cs)

/-- The entry of a table of names. -/
def named {α : Type} (table : List (String × α)) (cs : List Char) : Option α :=
  (table.find? fun e => e.1.toList == cs).map Prod.snd

/-- R69: the enumerated values that may be written by name. -/
def valueNames : List (String × Nat) :=
  [("AM", 0), ("PM", 1), ("SHOWTIME", 0), ("SETTIME", 1), ("SHOWALARM", 2), ("SETALARM", 3), ("NUMERIC", 0), ("TEXT", 1),
   ("DIM", 0), ("BRIGHT", 1), ("COLON", 0), ("DOT", 1)]

/-- R69: the register names of R33. -/
def registerNames : List (String × Reg) :=
  [("HOURS", .hours), ("MINUTES", .minutes), ("SECONDS", .seconds), ("MERIDIEM", .meridiem), ("BLINK", .blink),
   ("A_HOURS", .aHours), ("A_MINUTES", .aMinutes), ("A_SECONDS", .aSeconds), ("A_MERIDIEM", .aMeridiem), ("BRIGHT", .bright),
   ("PMODE", .pmode), ("DMODE", .dmode), ("CURSOR", .cursor), ("ROT", .rot), ("TLEN", .tlen), ("BUZZ", .buzz),
   ("RINGING", .ringing), ("SWITCH", .switch), ("SEG", .seg), ("POS", .pos), ("TSTAT0", .tstat0), ("TSTAT1", .tstat1),
   ("FAULT", .fault), ("ENCOUT", .encout)]

/-- A value that fits `n` bits. -/
def fitting (n : Nat) (v : Nat) : Option (BitVec n) := if v < 2 ^ n then some (BitVec.ofNat n v) else none

/-- A value operand: a number, a character in quotes, or an enumerated name (R69). -/
def valueOf (cs : List Char) : Option Nat :=
  match cs with
  | [q, c, q'] => if q = quoteChar ∧ q' = quoteChar then some c.toNat else (numberOf cs).or (named valueNames cs)
  | _ => (numberOf cs).or (named valueNames cs)

/-- An 8-bit value operand. -/
def byteOf (cs : List Char) : Option Byte := (valueOf cs).bind (fitting 8)
/-- A 16-bit number operand. -/
def halfOf (cs : List Char) : Option Half := (numberOf cs).bind (fitting 16)
/-- R69: a register operand is a register name or its number. -/
def registerOf (cs : List Char) : Option Byte :=
  ((named registerNames cs).map regNumber).or ((numberOf cs).bind (fitting 8))
/-- R69: a channel operand is `0` or `1`. -/
def channelOperand (cs : List Char) : Option Byte :=
  (numberOf cs).bind fun n => if n < 2 then some (BitVec.ofNat 8 n) else none
/-- A meridiem operand. -/
def meridiemOperand (cs : List Char) : Option Meridiem :=
  (valueOf cs).bind fun n => if n = 0 then some .am else if n = 1 then some .pm else none
/-- The operand of LOADTEXT: a string in double quotes of at most `TEXT_MAX` character codes (R70). -/
def stringOf (cs : List Char) : Option (List Byte) :=
  match cs with
  | [] => none
  | q :: rest =>
    if q = stringQuote ∧ rest.getLast? = some stringQuote ∧ rest.dropLast.length ≤ textMax then
      rest.dropLast.mapM fun c => fitting 8 c.toNat
    else none

/-- A command of R66 by its mnemonic and its operands. -/
def commandOf (mn : String) (ops : List (List Char)) : Option Instr :=
  match mn, ops with
  | "ENCD", [d] => (byteOf d).map .encd
  | "ENCC", [c] => (byteOf c).map .encc
  | "ENCP", [g] => (byteOf g).map .encp
  | "RENDER", [n] => (halfOf n).map .render
  | "TREG", [c, ms] => (channelOperand c).bind fun c => (halfOf ms).map (.treg c)
  | "TREV", [c] => (channelOperand c).map .trev
  | "TRST", [c] => (channelOperand c).map .trst
  | "WR", [r, v] => (registerOf r).bind fun r => (byteOf v).map (.wr r)
  | "RD", [r] => (registerOf r).map .rd
  | "WRT", [i, c] => (byteOf i).bind fun i => (byteOf c).map (.wrt i)
  | "RDT", [i] => (byteOf i).map .rdt
  | "REGEN", [] => some .regen
  | _, _ => none

/-- The four operands of SETCLK and SETALM. -/
def clockOperands (mk : Byte → Byte → Byte → Meridiem → Pseudo) (h m s mer : List Char) : Option Pseudo :=
  (byteOf h).bind fun h => (byteOf m).bind fun m => (byteOf s).bind fun s => (meridiemOperand mer).map (mk h m s)

/-- A pseudo-instruction of R70 by its name and its operands. -/
def pseudoOf (mn : String) (ops : List (List Char)) : Option Pseudo :=
  match mn, ops with
  | "HOLD", [n] => (halfOf n).map .hold
  | "TEXTON", [] => some .textOn
  | "TEXTOFF", [] => some .textOff
  | "SETCLK", [h, m, s, mer] => clockOperands .setClk h m s mer
  | "SETALM", [h, m, s, mer] => clockOperands .setAlm h m s mer
  | "LOADTEXT", [str] => (stringOf str).map .loadText
  | "ENTERSET", [] => some .enterSet
  | "LEAVESET", [] => some .leaveSet
  | _, _ => none

/-- The events of the environment in a listing (R69): `@TICK`, `@REFRESH`, `@SW 0`, `@SW 1`. -/
def environmentOf (mn : String) (ops : List (List Char)) : Option Input :=
  match mn, ops with
  | "@TICK", [] => some (.event Channel.ch0.eventCode)
  | "@REFRESH", [] => some (.event Channel.ch1.eventCode)
  | "@SW", [['0']] => some (.line .low)
  | "@SW", [['1']] => some (.line .high)
  | _, _ => none

/-- One line of a listing less its comment, cut into the first word and the operands. -/
def lineParts (cs : List Char) : String × List (List Char) :=
  let code := trim ((cutAt ';' .outside [] cs).headD [])
  let word := code.takeWhile fun c => !isBlank c
  let rest := trim (code.dropWhile fun c => !isBlank c)
  (String.ofList word, if rest.isEmpty then [] else (cutAt ',' .outside [] rest).map trim)

/-- The inputs of one line: none for an empty line, the expansion for a pseudo-instruction (R69, R70). -/
def assembleLine (cs : List Char) : Option (List Input) :=
  let (mn, ops) := lineParts cs
  if mn = "" then some []
  else
    match environmentOf mn ops, commandOf mn ops, pseudoOf mn ops with
    | some e, _, _ => some [e]
    | none, some i, _ => some [inputOf i]
    | none, none, some p => some (p.expand.map inputOf)
    | none, none, none => none

/-- A listing, one command or event a line (R69), as the schedule it stands for. -/
def assemble (listing : String) : Option (List Input) :=
  ((linesOf [] listing.toList).mapM assembleLine).map List.flatten

end Sys2Proof.Machine
end

