-- ==== Sys2Proof/Tests/Slice0.lean ====
section
/-! SUPPORT. Tests: the refused terms and words, each constructor's decoding from a word written out from the table of R66, at most two small
tests an instruction from the vectors of 95_test_vectors.md, and a witness for the hypotheses of each statement. -/

open Sys2Proof Sys2Proof.Machine Sys2Proof.Claims

namespace Sys2Proof.Tests

/-! ## Terms without a word (WellFormed) -/

theorem test_treg_of_channel_2_is_ill_formed : (Instr.treg 2 16).wellFormed = false := by decide
theorem test_trev_of_channel_2_is_ill_formed : (Instr.trev 2).wellFormed = false := by decide
theorem test_trst_of_channel_255_is_ill_formed : (Instr.trst 0xFF).wellFormed = false := by decide
theorem test_channel_1_is_well_formed : (Instr.treg 1 0).wellFormed = true := by decide
theorem test_wr_of_an_illegal_value_has_a_word : (Instr.wr 0 88).wellFormed = true := by decide

/-! ## Decoding: the worked encodings of 30_encoding.md section 8 -/

theorem test_decode_encd : decodeTableWord 32 0x01070000 = some (.encd 7) := by decide
theorem test_decode_encc : decodeTableWord 32 0x02540000 = some (.encc 0x54) := by decide
theorem test_decode_encp : decodeTableWord 32 0x03000000 = some (.encp 0) := by decide
theorem test_decode_render : decodeTableWord 32 0x10000002 = some (.render 2) := by decide
theorem test_decode_treg_0 : decodeTableWord 32 0x200003E8 = some (.treg 0 1000) := by decide
theorem test_decode_treg_1 : decodeTableWord 32 0x20010010 = some (.treg 1 16) := by decide
theorem test_decode_trev : decodeTableWord 32 0x21010000 = some (.trev 1) := by decide
theorem test_decode_trst : decodeTableWord 32 0x22010000 = some (.trst 1) := by decide
theorem test_decode_wr : decodeTableWord 32 0x30010005 = some (.wr 1 5) := by decide
theorem test_decode_rd : decodeTableWord 32 0x31110000 = some (.rd 0x11) := by decide
theorem test_decode_wrt : decodeTableWord 32 0x3203006C = some (.wrt 3 0x6C) := by decide
theorem test_decode_rdt : decodeTableWord 32 0x33030000 = some (.rdt 3) := by decide
theorem test_decode_regen : decodeTableWord 32 0x40000000 = some .regen := by decide
theorem test_decode_tick : decodeTableWord 8 0x00 = some .tick := by decide
theorem test_decode_refresh : decodeTableWord 8 0x01 = some .refresh := by decide

/-- 95_test_vectors.md 2.10: words with an illegal `op`. -/
theorem test_illegal_opcodes :
    ([0x00000000, 0xFFFFFFFF, 0x04000000, 0x11000000, 0x23000000, 0x34000000, 0x41000000] : List CommandWord).all
      (fun w => (decodeCommand w).toOption.isNone) = true := by decide

/-- 95_test_vectors.md 2.1, 2.2, 2.7, 2.9: words with a 1 in a must-be-zero bit. -/
theorem test_must_be_zero_bits :
    ([0x01070001, 0x10010001, 0x20020010, 0x21020000, 0x21010001, 0x30000109, 0x31000001, 0x32000141, 0x40010000, 0x40000001]
      : List CommandWord).all (fun w => (decodeCommand w).toOption.isNone) = true := by decide

theorem test_event_codes_above_1_are_refused : decodeEvent 0x02 = none ∧ decodeEvent 0xFF = none := by decide

/-- R66: no word matches two rows: two rows differ in a bit both masks hold. -/
theorem test_rows_do_not_overlap :
    commandRows.Pairwise (fun x y => x.value &&& (x.mask &&& y.mask) ≠ y.value &&& (x.mask &&& y.mask)) := by decide

/-! ## States and a configuration for the tests -/

/-- The reset state with the switch line high: the start state of 95_test_vectors.md section 0. -/
def idle : State := { State.reset with swN := .high }

/-- Both channels registered and in force. -/
def running : State :=
  { idle with
    chan0 := { reg := true, en := true, period := 1000, pend := false }
    chan1 := { reg := true, en := true, period := 16, pend := false } }

/-- A foreground pass of one cycle, about to drive position 1. -/
def pass : State := { idle with seqActive := true, seqN := 1 }

/-- A refresh pass of two cycles, about to drive position 1. -/
def handler : State := { running with hctx := .refresh, seqActive := true, seqCtx := .refresh, seqN := 2 }

/-- The codes of "Twelve O'Clock PM" (95_test_vectors.md S9). -/
def twelve : List Byte :=
  [0x54, 0x77, 0x65, 0x6C, 0x76, 0x65, 0x20, 0x4F, 0x27, 0x43, 0x6C, 0x6F, 0x63, 0x6B, 0x20, 0x50, 0x4D]

/-- The fixture configuration of 95_test_vectors.md section 0. -/
def fixture : Config :=
  { chip with dwellHigh := 1000, dwellLow := 100, tBlank := 0, refreshTimeOn := 1, speak := fun _ _ _ => twelve }

/-- The next state, if there is one. -/
def after : Outcome → Option State
  | .next t => some t
  | .fault _ => none
  | .refused _ => none

/-- What a command leaves in `ENCOUT`, in `FAULT` and as its response, from the start state. -/
def encoded (i : Instr) : Option (Byte × Byte × List Half) :=
  (after (exec i idle)).map fun t => (t.encout, t.faultReg, t.responses)

/-- The five patterns of a cycle. -/
def patterns (cfg : Config) (s : State) : List (Option Byte) :=
  [Position.p1, .p2, .p3, .p4, .p5].map fun p => (slotPattern cfg s p).toOption

/-- `k` micro-steps of the sequencer under a configuration. -/
def micro (cfg : Config) : Nat → State → Option State
  | 0, s => some s
  | k + 1, s => (after (microStep cfg s)).bind (micro cfg k)

/-! ## Segment Encoder (95_test_vectors.md 2.1) -/

theorem test_encd_9 : encoded (.encd 9) = some (0x6F, 0, [0x006F]) := by decide
theorem test_encd_10_is_refused : encoded (.encd 10) = some (0x00, 2, [0x0200]) := by decide
theorem test_encc_lower_case : encoded (.encc 0x7A) = some (0x5B, 0, [0x005B]) := by decide
theorem test_encc_colon_is_blank : encoded (.encc 0x3A) = some (0x00, 0, [0x0000]) := by decide
theorem test_encp_dot : encoded (.encp 1) = some (0x80, 0, [0x0080]) := by decide
theorem test_encp_2_is_refused : encoded (.encp 2) = some (0x00, 2, [0x0200]) := by decide

/-! ## Display Multiplexer (95_test_vectors.md 2.2 to 2.5) -/

/-- N8: 8:48 AM, dim, switch engaged. -/
theorem test_slots_n8 :
    patterns fixture { idle with hours := 8, minutes := 48, bright := false, swN := .low } =
      [some 0x00, some 0x7F, some 0xE6, some 0xFF, some 0x03] := by decide
/-- N6: 11:59 AM, `BLINK` 1. -/
theorem test_slots_n6 :
    patterns fixture { idle with hours := 11, minutes := 59, blink := true } =
      [some 0x06, some 0x06, some 0xED, some 0x6F, some 0x00] := by decide
/-- N13: alarm view, PM, switch engaged. -/
theorem test_slots_n13 :
    patterns fixture { idle with
      hours := 9, minutes := 5, aHours := 7, aMinutes := 45, aMeridiem := .pm, pmode := .setAlarm, swN := .low } =
      [some 0x00, some 0x07, some 0x66, some 0xED, some 0x00] := by decide
/-- N14: the other reading of the colon outside ShowTime. -/
theorem test_slots_n14 :
    patterns { fixture with colonNonShowtime := .solid } { idle with hours := 9, minutes := 5, pmode := .setTime, blink := true } =
      [some 0x00, some 0x6F, some 0xBF, some 0x6D, some 0x03] := by decide
/-- 2.3, cursor 14: index 17 is at `TLEN` and blank. -/
theorem test_text_slots_past_the_end :
    patterns fixture { idle with dmode := .scrollingText, text := Memory.ofString 0 twelve, tlen := 17, cursor := 14 } =
      [some 0x00, some 0x73, some 0x37, some 0x00, some 0x00] := by decide
/-- 2.4: `ROT` 9, cursor 13 of 17 wraps to 0. -/
theorem test_scroll_wraps :
    ((scrollAdvance { idle with rot := 9, cursor := 13, tlen := 17 }).rot,
      (scrollAdvance { idle with rot := 9, cursor := 13, tlen := 17 }).cursor) = (0, 0) := by decide
/-- 2.2: a slot of RENDER 1, driven and blanked. -/
theorem test_first_slot :
    (micro fixture 2 { pass with hours := 9, minutes := 5 }).map (fun t => (t.trace, t.seg, t.pos, t.seqPos)) =
      some ([.drive .p1 0x00 1000, .blank 0], 0x00, 0b00000, .p2) := by decide
/-- 2.5: the siren check calls the siren, the next micro-step clears `BUZZ`. -/
theorem test_siren :
    (micro fixture 2 { pass with swN := .low, ringing := true, buzz := true, seqPos := .p5, seqPhase := .sirenChk }).map
      (fun t => (t.trace, t.buzz, t.seqRep)) = some ([.siren], false, 1) := by decide
theorem test_render_is_refused_while_refresh_is_on :
    (after (exec (.render 1) running)).map (fun t => (t.faultReg, t.responses, t.seqActive)) = some (3, [0x0300], false) := by
  decide
theorem test_render_is_admitted :
    (after (exec (.render 2) idle)).map (fun t => (t.seqActive, t.seqN, t.hctx, t.responses)) = some (true, 2, .none, []) := by
  decide
theorem test_refresh_enters_the_handler :
    (after (exec .refresh running)).map (fun t => (t.hctx, t.seqActive, t.seqCtx)) = some (.refresh, true, .refresh) := by
  decide

/-! ## TICK (95_test_vectors.md 2.6) -/

/-- T4: the meridiem flips on reaching 12. -/
theorem test_tick_t4 :
    (tick fixture { idle with hours := 11, minutes := 59, seconds := 59, cursor := 5 }).wallTime = ⟨12, 0, 0, .pm⟩ ∧
    (tick fixture { idle with hours := 11, minutes := 59, seconds := 59, cursor := 5 }).cursor = 0 := by decide
/-- T6: 13 wraps to 1 with no flip, and 1 AM is dim. -/
theorem test_tick_t6 :
    (tick fixture { idle with hours := 12, minutes := 59, seconds := 59 }).wallTime = ⟨1, 0, 0, .am⟩ ∧
    (tick fixture { idle with hours := 12, minutes := 59, seconds := 59 }).bright = false := by decide

/-! ## Timer commands (95_test_vectors.md 2.7) -/

theorem test_treg_1 :
    (after (exec (.treg 1 16) idle)).map (fun t => (t.chan1, tstatByte t.chan1)) = some (⟨true, true, 16, false⟩, 3) := by decide
theorem test_treg_0_999_is_refused :
    (after (exec (.treg 0 999) idle)).map (fun t => (t.responses, tstatByte t.chan0)) = some ([0x0200], 0) := by decide
theorem test_trev_1 :
    (after (exec (.trev 1) running)).map (fun t => (tstatByte t.chan1, t.chan1.period)) = some (1, 16) := by decide
theorem test_trev_2_is_a_bad_operand_first :
    (after (exec (.trev 2) idle)).map (fun t => t.responses) = some [0x0200] := by decide
theorem test_trst_1 :
    (after (exec (.trst 1) { running with chan1 := ⟨true, false, 16, false⟩ })).map (fun t => tstatByte t.chan1) = some 3 := by
  decide
theorem test_trst_0_unregistered_is_refused :
    (after (exec (.trst 0) idle)).map (fun t => (t.faultReg, t.responses)) = some (4, [0x0400]) := by decide

/-! ## Register and text access (95_test_vectors.md 2.9) -/

theorem test_wr_pmode_3 :
    (after (exec (.wr 0x0A 3) idle)).map (fun t => (t.pmode, t.responses)) = some (.setAlarm, [0x0000]) := by decide
theorem test_wr_hours_88_is_refused :
    (after (exec (.wr 0x00 88) idle)).map (fun t => (t.hours, t.responses)) = some (12, [0x0200]) := by decide
theorem test_rd_switch :
    (after (exec (.rd 0x11) { idle with swN := .low })).map (fun t => t.responses) = some [0x0001] := by decide
theorem test_rd_0x18_is_refused : (after (exec (.rd 0x18) idle)).map (fun t => t.responses) = some [0x0200] := by decide
theorem test_wrt_63 :
    (after (exec (.wrt 63 0x41) idle)).map (fun t => (t.text, Memory.read t.text 63, t.tlen)) =
      some ([(63, 0x41)], 0x41, 0) := by decide
theorem test_wrt_of_0_unlists :
    (after (exec (.wrt 3 0) { idle with text := [(3, 0x6C), (5, 0x41)] })).map (fun t => t.text) = some [(5, 0x41)] := by
  decide
theorem test_rdt_3 :
    (after (exec (.rdt 3) { idle with text := [(3, 0x6C)] })).map (fun t => t.responses) = some [0x006C] := by decide
theorem test_rdt_64_is_refused : (after (exec (.rdt 64) idle)).map (fun t => t.responses) = some [0x0200] := by decide
/-- REGEN with `CURSOR` 9 and `ROT` 4. -/
theorem test_regen :
    ((regenerate fixture { idle with cursor := 9, rot := 4 }).tlen, (regenerate fixture { idle with cursor := 9, rot := 4 }).rot,
      (List.range 17).map (Memory.read (regenerate fixture { idle with cursor := 9, rot := 4 }).text)) = (17, 4, twelve) := by
  decide

/-! ## The step -/

/-- 95_test_vectors.md 2.8 (2), (3): a firing in the handler is latched, a second one is lost. -/
theorem test_firing_in_the_handler :
    ((after (step { handler with inputs := [.event 0, .event 0] })).bind (fun t => after (step t))).map
      (fun t => (t.chan0.pend, t.seconds)) = some (true, 0) := by decide

/-- R201, R199: between the return from the handler and the service of the latch a firing is lost, and the latched TICK runs once. -/
theorem test_firing_before_the_latch_is_served :
    let s := { running with chan0 := { running.chan0 with pend := true }, inputs := [.event 0] }
    (after (step s)).map (fun t => (t.chan0.pend, t.seconds)) = some (true, 0) ∧
      ((after (step s)).bind (fun t => after (step t))).map (fun t => (t.chan0.pend, t.seconds)) = some (false, 1) := by decide

/-- R10, R35: the configuration reaches the step: a power-on with another boot hour, a drive under the fixture. -/
theorem test_step_under_a_configuration :
    (after (stepWith { fixture with rst := { ResetValues.standard with hours := 7, hours_legal := by decide } }
      { idle with inputs := [.powerOn] })).map (fun t => (t.hours, t.aHours)) = some (7, 12) ∧
      (after (stepWith fixture { pass with seqPos := .p5 })).map (fun t => t.trace) = some [.drive .p5 0x03 1000] := by decide

/-- 95_test_vectors.md 2.10: the first code is kept. -/
theorem test_first_code_is_kept :
    ((after (step { idle with inputs := [.command 0, .command 0x30000000] })).bind (fun t => after (step t))).map
      (fun t => (t.faultReg, t.responses)) = some (1, [0x0100, 0x0200]) := by decide

theorem test_fetch_word_encd : step (State.reset.withFetchWord 32 0x01070000) = exec (.encd 7) State.reset := rfl
theorem test_fetch_word_tick :
    step (State.reset.withFetchWord 8 0x00) =
      exec .tick { State.reset with chan0 := { TimerChannel.unregistered with reg := true, en := true } } := rfl

/-! ## The written form (30_encoding.md R69, R70) -/

theorem test_assemble_commands :
    assemble "ENCC 'T' ; a comment, 'x\nWR HOURS, 9\n" = some [.command 0x02540000, .command 0x30000009] := by decide
theorem test_assemble_events :
    assemble "  ENCP COLON\n; all\nTREG 1, 16\nWRT 3, 'l'\n@SW 0\n@TICK\nWR PMODE, SETTIME" =
      some [.command 0x03000000, .command 0x20010010, .command 0x3203006C, .line .low, .event 0, .command 0x300A0001] := by
  decide
theorem test_assemble_loadtext :
    assemble "LOADTEXT \"12-\"" =
      some [.command 0x32000031, .command 0x32010032, .command 0x3202002D, .command 0x300E0003, .command 0x300C0000] := by
  decide
theorem test_assemble_refuses_channel_2 : assemble "TREV 2" = none := by decide

/-! ## Witnesses: for each statement with hypotheses, states and operands that meet them, one for each clause at a boundary -/

/-- The start state, both channels in force, a foreground pass about to drive, a refresh pass about to drive, and the two dwells meet the
invariant. -/
theorem idle_inv : idle.Inv := by
  constructor
  case placed => intro h; cases h
  all_goals decide
theorem running_inv : running.Inv := by
  constructor
  case placed => intro h; cases h
  all_goals decide
theorem pass_inv : pass.Inv := by
  constructor
  case placed => exact fun _ => ⟨by decide, by decide⟩
  all_goals decide
theorem handler_inv : handler.Inv := by
  constructor
  case placed => exact fun _ => ⟨by decide, by decide⟩
  all_goals decide

/-- A foreground pass within the dwell of position 1. -/
def dwelling : State := { pass with seg := 0x06, pos := 0b00001, seqPhase := .blank }
theorem dwelling_inv : dwelling.Inv := by
  constructor
  case placed => exact fun _ => (by decide : (0 : Nat) < 1)
  all_goals decide

/-- The last micro-step of a foreground pass in ScrollingText mode. -/
def scrolling : State :=
  { pass with dmode := .scrollingText, tlen := 64, cursor := 60, rot := 9, seqRep := 1, seqPhase := .scroll }
theorem scrolling_inv : scrolling.Inv := by
  constructor
  case placed => exact fun _ => ⟨by decide, by decide⟩
  all_goals decide
/-- The last micro-step of a refresh pass. -/
def returning : State := { handler with seqRep := 2, seqPhase := .scroll }
theorem returning_inv : returning.Inv := by
  constructor
  case placed => exact fun _ => ⟨by decide, by decide⟩
  all_goals decide

/-! ### Encoding -/

theorem witness_DecodeOfEncodeIsTheInstruction : (Instr.treg 1 16).wellFormed = true := by decide
theorem witness_EncodeOfDecodeIsTheWord :
    decode (.command 0x20010010) = some (.treg 1 16) ∧ decode (.event 0x01) = some .refresh := by decide
theorem witness_WordMatchesItsTableRow :
    (⟨"TREG", 0x20000000, 0xFFFE0000⟩ : TableRow) ∈ commandRows ∧ (0x20010010 : CommandWord) &&& 0xFFFE0000 = 0x20000000 := by
  decide
theorem witness_EventCodesNameTheCallbacks :
    2 ≤ (0x02 : Byte).toNat ∧ (decodeCommand 0x40000000).toOption = some .regen := by decide
theorem witness_UnassignedOpcodeIsRefused :
    let s := { idle with inputs := [.command 0x41FFFFFF] }
    ((0x41FFFFFF : CommandWord) >>> 24).toNat ∉ [0x01, 0x02, 0x03, 0x10, 0x20, 0x21, 0x22, 0x30, 0x31, 0x32, 0x33, 0x40] ∧
      s.hostMayStep = true ∧ s.inputs = .command 0x41FFFFFF :: [] := by decide
theorem witness_MustBeZeroBitIsRefused :
    let s := { idle with inputs := [.command 0x20020010] }
    ((0x20020010 : CommandWord) >>> 24).toNat ∈ [0x01, 0x02, 0x03, 0x10, 0x20, 0x21, 0x22, 0x30, 0x31, 0x32, 0x33, 0x40] ∧
      (∀ row ∈ commandRows, (0x20020010 : CommandWord) &&& row.mask ≠ row.value) ∧
      s.hostMayStep = true ∧ s.inputs = .command 0x20020010 :: [] := by decide

/-! ### The step -/

theorem witness_StepRunsTheHostsCommand :
    let s := { idle with inputs := [.command 0x01090000] }
    s.hostMayStep = true ∧ s.inputs = .command 0x01090000 :: [] ∧ decodeCommand 0x01090000 = .ok (.encd 9) :=
  ⟨rfl, rfl, rfl⟩
theorem witness_FiringRunsTheCallback :
    let s := { running with inputs := [.event 0x01] }
    s.inputs = .event 0x01 :: [] ∧ decodeEvent 0x01 = some .ch1 ∧ (s.chan .ch1).en = true ∧ (s.chan .ch1).pend = false ∧
      s.hctx = .none := by decide
/-- A firing to come whose latch is set, in the handler and after it. -/
theorem witness_FiringRunsTheCallback_lost :
    let s := { running with chan0 := { running.chan0 with pend := true }, inputs := [.event 0x00] }
    s.inputs = .event 0x00 :: [] ∧ decodeEvent 0x00 = some .ch0 ∧ (s.chan .ch0).en = true ∧ (s.chan .ch0).pend = true ∧
      s.hctx = .none ∧ (({ s with hctx := .refresh } : State).chan .ch0).pend = true := by decide
theorem witness_HostWordWaitsForTheBlock :
    let s := { handler with inputs := [.command 0x40000000] }
    let u := { pass with inputs := [.command 0x40000000] }
    s.hctx = .refresh ∧ u.seqActive = true ∧ (after (step s)).isSome = true ∧ (after (step u)).isSome = true ∧
      (after (step { u with hours := 0 })).isNone = true := ⟨rfl, rfl, rfl, rfl, rfl⟩
theorem witness_FiringInTheHandlerIsLatched :
    handler.hctx = .refresh ∧ handler.chan0.en = true ∧ handler.chan1.en = true ∧
      ({ handler with inputs := [.event 0x00] } : State).inputs = .event 0x00 :: [] ∧
      ({ handler with inputs := [.event 0x01] } : State).inputs = .event 0x01 :: [] := by decide
theorem witness_FiringOutOfForceDoesNothing :
    let s := { idle with inputs := [.event 0x01] }
    s.inputs = .event 0x01 :: [] ∧ decodeEvent 0x01 = some .ch1 ∧ (s.chan .ch1).en = false := by decide
/-- Both latches as wanted, no handler running. -/
def latched (p0 p1 : Bool) : State :=
  { running with chan0 := { running.chan0 with pend := p0 }, chan1 := { running.chan1 with pend := p1 } }
theorem witness_PendingCallbackRunsBeforeTheHost :
    (latched true false).hctx = .none ∧ (latched true false).inputs = [] ∧
      (latched true false).due .ch0 = true ∧ (latched true false).due .ch1 = false ∧
      (latched false true).due .ch0 = false ∧ (latched false true).due .ch1 = true ∧
      (latched true true).due .ch0 = true ∧ (latched true true).due .ch1 = true := by decide
theorem witness_PendingCallbackRunsBeforeTheHost_command :
    let s := { latched true true with inputs := [.command 0x40000000] }
    s.hctx = .none ∧ (∃ w rest, s.inputs = .command w :: rest) ∧ s.due .ch0 = true := ⟨rfl, ⟨_, _, rfl⟩, rfl⟩
theorem witness_IdleBlockStaysAsItIs : running.hostMayStep = true ∧ running.inputs = [] := by decide
theorem witness_LineChangeIsOneTransition :
    ({ handler with inputs := [.line .low] } : State).inputs = .line .low :: [] := rfl

/-! ### Reset and the invariant -/

theorem witness_PowerOnResetsEverything :
    ({ handler with inputs := [.powerOn] } : State).inputs = .powerOn :: [] := rfl
theorem witness_StepKeepsTheInvariant :
    ∃ t, handler.Inv ∧ step handler = .next t ∧ LegalConfig chip ∧ stepWith chip handler = .next t :=
  ⟨_, handler_inv, rfl, chip_legal, rfl⟩
theorem witness_StepNeverStops :
    idle.Inv ∧ ∀ ev rest, idle.inputs = .event ev :: rest → ev.toNat ≤ 1 := ⟨idle_inv, fun _ _ h => by cases h⟩
theorem witness_OutputsBlankOutsideTheDwell :
    (∃ t, pass.Inv ∧ step pass = .next t ∧ t.seqActive = true ∧ t.seqPhase = .blank) ∧
      ∃ t, dwelling.Inv ∧ step dwelling = .next t ∧ ¬ (t.seqActive = true ∧ t.seqPhase = .blank) :=
  ⟨⟨_, pass_inv, rfl, rfl, rfl⟩, _, dwelling_inv, rfl, fun h => by cases h.2⟩
theorem witness_OnlyTheSequencerDrivesTheOutputs :
    (∃ t, step dwelling = .next t ∧ ¬ PowerComing dwelling ∧ (t.seg ≠ dwelling.seg ∨ t.pos ≠ dwelling.pos)) ∧
      ∃ t, step pass = .next t ∧ ¬ PowerComing pass ∧ (t.seg ≠ pass.seg ∨ t.pos ≠ pass.pos) :=
  ⟨⟨_, rfl, (fun ⟨_, h⟩ => by cases h), .inl (by decide)⟩, _, rfl, (fun ⟨_, h⟩ => by cases h), .inr (by decide)⟩

/-! ### Refusals -/

theorem witness_CommandAnswersOrIsRefused :
    (∃ t, (Instr.rd 0x17).isCommand = true ∧ exec (.rd 0x17) idle = .next t) ∧
      (∃ t, (Instr.rd 0x18).isCommand = true ∧ exec (.rd 0x18) idle = .next t) ∧
      ∃ t, (Instr.render 0).isCommand = true ∧ exec (.render 0) idle = .next t :=
  ⟨⟨_, rfl, rfl⟩, ⟨_, rfl, rfl⟩, _, rfl, rfl⟩
theorem witness_FaultKeepsTheFirstCode :
    (∃ t, step { idle with inputs := [.powerOn], faultReg := 4 } = .next t ∧
      PowerComing { idle with inputs := [.powerOn], faultReg := 4 }) ∧
    (∃ t, step { idle with inputs := [.command 0], faultReg := 4 } = .next t ∧
      ¬ PowerComing { idle with inputs := [.command 0], faultReg := 4 }) ∧
    (∃ t, step { idle with inputs := [.command 0] } = .next t ∧ ¬ PowerComing { idle with inputs := [.command 0] } ∧
      t.faultReg ≠ 0 ∧ t.responses = [(0x01 : Byte) ++ (0x00 : Byte)] ∧ (0x01 : Byte) ≠ 0) :=
  ⟨⟨_, rfl, ⟨_, rfl⟩⟩, ⟨_, rfl, (fun ⟨_, h⟩ => by cases h)⟩, _, rfl, (fun ⟨_, h⟩ => by cases h), by decide, rfl, by decide⟩
theorem witness_BadOperandExactlyOnIllegalValues :
    operandsLegal (.encd 10) = false ∧ operandsLegal (.encd 9) = true ∧ (after (exec (.encd 9) idle)).isSome = true := by
  decide

/-! ### Segment Encoder, registers and text -/

theorem witness_EncdGivesTheNumeral : (9 : Byte).toNat ≤ 9 ∧ 9 < (10 : Byte).toNat ∧ (1 : Half) ≠ 0 := by decide
theorem witness_EnccGivesTheCharacter : (0x8000 : Half) ≠ 0 := by decide
theorem witness_EncpGivesTheGlyph : (0 : Byte) = 0 ∧ (1 : Byte) = 1 ∧ 1 < (2 : Byte).toNat ∧ (1 : Half) ≠ 0 := by decide
theorem witness_ChipHoldsTheDefaultTables : 9 ≤ 9 := le_rfl
theorem witness_WrWritesTheNamedRegister :
    (0x00, 1, 12) ∈ writable ∧ 1 ≤ (1 : Byte).toNat ∧ (1 : Byte).toNat ≤ 12 ∧
      (0x10, 0, 1) ∈ writable ∧ 0 ≤ (1 : Byte).toNat ∧ (1 : Byte).toNat ≤ 1 ∧ (0x17 : Byte).toNat ≤ 0x17 := by decide
/-- A value above the range, a read-only register, an unassigned number. -/
theorem witness_WrRefusesEverythingElse :
    (∀ n lo hi : Nat, (n, lo, hi) ∈ writable → (0x00 : Byte).toNat = n → ¬ (lo ≤ (13 : Byte).toNat ∧ (13 : Byte).toNat ≤ hi)) ∧
    (∀ n lo hi : Nat, (n, lo, hi) ∈ writable → (0x11 : Byte).toNat = n → ¬ (lo ≤ (1 : Byte).toNat ∧ (1 : Byte).toNat ≤ hi)) ∧
    (∀ n lo hi : Nat, (n, lo, hi) ∈ writable → (0x18 : Byte).toNat = n → ¬ (lo ≤ (0 : Byte).toNat ∧ (0 : Byte).toNat ≤ hi)) := by
  have h : ∀ (r v : Byte), (writable.all fun e => r.toNat != e.1 || !(decide (e.2.1 ≤ v.toNat) && decide (v.toNat ≤ e.2.2))) = true →
      ∀ n lo hi : Nat, (n, lo, hi) ∈ writable → r.toNat = n → ¬ (lo ≤ v.toNat ∧ v.toNat ≤ hi) := by
    intro r v h n lo hi hm hn hb
    have := List.all_eq_true.1 h _ hm
    simp [hn, hb] at this
  exact ⟨h 0x00 13 (by decide), h 0x11 1 (by decide), h 0x18 0 (by decide)⟩
theorem witness_RdReturnsTheRegister :
    (0x17 : Byte).toNat ≤ 0x17 ∧ 0x17 < (0x18 : Byte).toNat ∧ (1 : Half) ≠ 0 ∧ running.Inv ∧ running.hostMayStep = true :=
  ⟨by decide, by decide, by decide, running_inv, by decide⟩
theorem witness_WrtStoresOneCharacter :
    (63 : Byte).toNat < 64 ∧ Memory.wf [(0, 0x54), (63, 0x41)] = true ∧ 64 ≤ (64 : Byte).toNat ∧ (1 : Byte) ≠ 0 := by decide
theorem witness_RdtReturnsTheCharacter : (63 : Byte).toNat < 64 ∧ 64 ≤ (64 : Byte).toNat ∧ (1 : Half) ≠ 0 := by decide
theorem witness_RegenRewritesTheText : ((1 : Byte) ≠ 0 ∨ (0 : Half) ≠ 0) ∧ ((0 : Byte) ≠ 0 ∨ (1 : Half) ≠ 0) := by decide

/-! ### Timer channels and who writes what -/

theorem witness_TregRegistersTheChannel :
    (1000 : Half) = 1000 ∧ (999 : Half) ≠ 1000 ∧ (1 : Half) ≠ 0 ∧ (0 : Half) = 0 ∧ 1 < (2 : Byte).toNat := by decide
theorem witness_TrevRevokesTheChannel :
    running.chan0.reg = true ∧ idle.chan0.reg = false ∧ running.chan1.reg = true ∧ idle.chan1.reg = false ∧
      1 < (2 : Byte).toNat ∧ (1 : Half) ≠ 0 := by decide
theorem witness_TrstReinstatesTheChannel :
    running.chan0.reg = true ∧ idle.chan0.reg = false ∧ running.chan1.reg = true ∧ idle.chan1.reg = false ∧
      1 < (2 : Byte).toNat ∧ (1 : Half) ≠ 0 := by decide
theorem witness_OnlyTimerCommandsChangeAChannel :
    ∃ t, step { idle with inputs := [.command 0x20010010] } = .next t ∧
      ¬ PowerComing { idle with inputs := [.command 0x20010010] } ∧ (t.chan .ch1).reg ≠ (idle.chan .ch1).reg :=
  ⟨_, rfl, (fun ⟨_, h⟩ => by cases h), by decide⟩
theorem witness_OnlyWrChangesTheHostsRegisters :
    ∃ t, step { idle with inputs := [.command 0x300A0003] } = .next t ∧
      ¬ PowerComing { idle with inputs := [.command 0x300A0003] } ∧ t.pmode ≠ idle.pmode :=
  ⟨_, rfl, (fun ⟨_, h⟩ => by cases h), by decide⟩

/-! ### Display Multiplexer -/

theorem witness_RenderIsAdmittedOrRefused :
    running.chan1.en = true ∧ idle.chan1.en = false ∧ idle.hostMayStep = true ∧ pass.seqActive = true ∧ (1 : Byte) ≠ 0 := by
  decide
theorem witness_NumericSlotsShowTheTime :
    idle.dmode = .numeric ∧ ClockLegal (shown { idle with minutes := 59 }) ∧
      ClockLegal (shown { idle with pmode := .setAlarm, aHours := 1, aSeconds := 59 }) :=
  ⟨rfl, ⟨by decide, by decide, by decide, by decide⟩, ⟨by decide, by decide, by decide, by decide⟩⟩
theorem witness_TextSlotsShowTheWindow :
    scrolling.dmode = .scrollingText ∧ scrolling.tlen.toNat ≤ 64 := by decide
/-- A pass with no cycle left, at DRIVE. -/
def spent : State := { pass with seqRep := 1 }
theorem spent_inv : spent.Inv := by
  constructor
  case placed => exact fun _ => ⟨by decide, fun _ => rfl⟩
  all_goals decide
theorem witness_DriveStepDrivesTheSlot :
    (spent.Inv ∧ SequencerTurn spent ∧ spent.seqPhase = .drive ∧ spent.seqRep = spent.seqN) ∧
      (handler.Inv ∧ SequencerTurn handler ∧ handler.seqPhase = .drive ∧ handler.seqRep ≠ handler.seqN) :=
  ⟨⟨spent_inv, ⟨rfl, rfl, .inr ⟨rfl, rfl⟩⟩, rfl, rfl⟩, handler_inv, ⟨rfl, rfl, .inl rfl⟩, rfl, by decide⟩
theorem witness_BlankStepBlanksTheOutputs :
    ∀ p : Position, SequencerTurn { dwelling with seqPos := p } ∧ ({ dwelling with seqPos := p } : State).seqPhase = .blank ∧
      ({ dwelling with seqPos := p } : State).seqPos = p := fun _ => ⟨⟨rfl, rfl, .inr ⟨rfl, rfl⟩⟩, rfl, rfl⟩
theorem witness_SirenIsCalledAndThePulseCleared :
    let s := { pass with seqPhase := .sirenChk, seqPos := .p5, swN := .low, ringing := true, buzz := true }
    SequencerTurn s ∧ s.seqPhase = .sirenChk ∧ s.swN = .low ∧ s.ringing = true ∧ s.buzz = true ∧
      SequencerTurn { s with swN := .high } ∧ SequencerTurn { s with seqPhase := .sirenClr } :=
  ⟨⟨rfl, rfl, .inr ⟨rfl, rfl⟩⟩, rfl, rfl, rfl, rfl, ⟨rfl, rfl, .inr ⟨rfl, rfl⟩⟩, rfl, rfl, .inr ⟨rfl, rfl⟩⟩
theorem witness_ScrollStepEndsThePass :
    (scrolling.Inv ∧ SequencerTurn scrolling ∧ scrolling.seqPhase = .scroll ∧ scrolling.seqCtx = .foreground) ∧
      (returning.Inv ∧ SequencerTurn returning ∧ returning.seqPhase = .scroll ∧ returning.seqCtx = .refresh) :=
  ⟨⟨scrolling_inv, ⟨rfl, rfl, .inr ⟨rfl, rfl⟩⟩, rfl, rfl⟩, returning_inv, ⟨rfl, rfl, .inl rfl⟩, rfl, rfl⟩
theorem witness_EveryPassCompletes :
    (pass.Inv ∧ pass.seqActive = true ∧ pass.inputs = [] ∧ pass.seqCtx = .foreground) ∧
      (handler.Inv ∧ handler.seqActive = true ∧ handler.inputs = [] ∧ handler.seqCtx = .refresh) :=
  ⟨⟨pass_inv, rfl, rfl, rfl⟩, handler_inv, rfl, rfl, rfl⟩
theorem witness_RenderDrivesItsCycles :
    idle.Inv ∧ idle.hostMayStep = true ∧ idle.inputs = [] ∧ idle.chan1.en = false ∧
      (idle.swN = .high ∨ idle.ringing = false ∨ idle.buzz = false) := ⟨idle_inv, rfl, rfl, rfl, .inl rfl⟩
/-- The siren due. -/
def ringing : State := { idle with swN := .low, ringing := true, buzz := true }
theorem ringing_inv : ringing.Inv := by
  constructor
  case placed => intro h; cases h
  all_goals decide
theorem witness_SirenSoundsOncePerPulse :
    ringing.Inv ∧ ringing.hostMayStep = true ∧ ringing.inputs = [] ∧ ringing.chan1.en = false ∧ ringing.swN = .low ∧
      ringing.ringing = true ∧ ringing.buzz = true ∧ (1 : Half) ≠ 0 := ⟨ringing_inv, rfl, rfl, rfl, rfl, rfl, rfl, by decide⟩
theorem witness_HandlerSeesConstantRegisters :
    ∃ t, handler.Inv ∧ handler.hctx = .refresh ∧ ¬ PowerComing handler ∧ step handler = .next t :=
  ⟨_, handler_inv, rfl, (fun ⟨_, h⟩ => by cases h), rfl⟩
/-- A foreground pass with channel 0 in force and its firing to come. -/
def ticked : State := { pass with chan0 := running.chan0, inputs := [.event 0x00] }
theorem ticked_inv : ticked.Inv := by
  constructor
  case placed => exact fun _ => ⟨by decide, by decide⟩
  all_goals decide
theorem witness_ForegroundPassSeesOnlyTicks :
    ∃ t, ticked.Inv ∧ ticked.seqActive = true ∧ ticked.seqCtx = .foreground ∧ ¬ PowerComing ticked ∧
      step ticked = .next t ∧ t.wallTime ≠ ticked.wallTime ∧ t.buzz ≠ ticked.buzz :=
  ⟨_, ticked_inv, rfl, rfl, (fun ⟨_, h⟩ => by cases h), rfl, by decide, by decide⟩
/-- A foreground pass about to clear `BUZZ`. -/
def clearing : State := { pass with buzz := true, seqPos := .p5, seqPhase := .sirenClr }
theorem clearing_inv : clearing.Inv := by
  constructor
  case placed => exact fun _ => ⟨by decide, rfl⟩
  all_goals decide
theorem witness_ForegroundPassSeesOnlyTicks_clear :
    ∃ t, clearing.Inv ∧ clearing.seqActive = true ∧ clearing.seqCtx = .foreground ∧ ¬ PowerComing clearing ∧
      step clearing = .next t ∧ t.buzz ≠ clearing.buzz :=
  ⟨_, clearing_inv, rfl, rfl, (fun ⟨_, h⟩ => by cases h), rfl, by decide⟩
theorem witness_ForegroundPassSeesOnlyTicks_scroll :
    ∃ t, scrolling.Inv ∧ scrolling.seqActive = true ∧ scrolling.seqCtx = .foreground ∧ ¬ PowerComing scrolling ∧
      step scrolling = .next t ∧ t.cursor ≠ scrolling.cursor ∧ t.rot ≠ scrolling.rot :=
  ⟨_, scrolling_inv, rfl, rfl, (fun ⟨_, h⟩ => by cases h), rfl, by decide, by decide⟩
/-- A foreground pass with a change of level to come. -/
def switched : State := { pass with inputs := [.line .low] }
theorem switched_inv : switched.Inv := by
  constructor
  case placed => exact fun _ => ⟨by decide, by decide⟩
  all_goals decide
theorem witness_ForegroundPassSeesOnlyTicks_line :
    ∃ t, switched.Inv ∧ switched.seqActive = true ∧ switched.seqCtx = .foreground ∧ ¬ PowerComing switched ∧
      step switched = .next t ∧ t.swN ≠ switched.swN :=
  ⟨_, switched_inv, rfl, rfl, (fun ⟨_, h⟩ => by cases h), rfl, by decide⟩

/-! ### TICK -/

/-- A legal clock at the upper end of every range, and one at the lower end. -/
theorem witness_ClockLegal :
    ClockLegal ({ idle with minutes := 59, seconds := 59 } : State).wallTime ∧
      ClockLegal ({ idle with hours := 1 } : State).wallTime := by
  simp [ClockLegal, State.wallTime, idle, State.reset, State.resetWith, ResetValues.standard]
theorem witness_TickAdvancesOneSecond : ClockLegal ({ idle with hours := 11, minutes := 59, seconds := 59 } : State).wallTime := by
  simp [ClockLegal, State.wallTime]
theorem witness_TickSetsItsFlags :
    let s := { idle with minutes := 59, seconds := 59 }
    ClockLegal s.wallTime ∧ s.pmode ≠ .setTime ∧ ClockLegal ({ s with pmode := .setTime } : State).wallTime := by
  simp [ClockLegal, State.wallTime, idle, State.reset, State.resetWith, ResetValues.standard]
theorem witness_TickRegeneratesOnTheMinute :
    let s := { idle with minutes := 59, seconds := 59 }
    ClockLegal s.wallTime ∧ s.seconds.toNat = 59 ∧ ClockLegal idle.wallTime ∧ idle.seconds.toNat ≠ 59 := by
  simp [ClockLegal, State.wallTime, idle, State.reset, State.resetWith, ResetValues.standard]
theorem witness_FullDayRoundTrip : ClockLegal idle.wallTime := by
  simp [ClockLegal, State.wallTime, idle, State.reset, State.resetWith, ResetValues.standard]
theorem witness_LegalTimesFormOneCycle : ClockLegal ⟨12, 0, 0, .am⟩ ∧ ClockLegal ⟨11, 59, 59, .pm⟩ := by
  simp [ClockLegal]
theorem witness_MeridiemFlipsTwiceADay : ClockLegal ⟨11, 59, 59, .am⟩ := by
  simp [ClockLegal]
/-- S7, T8: 6:59:59 AM, dim, becomes bright. -/
theorem witness_BrightnessChangesOnTheHour :
    let s := { idle with hours := 6, minutes := 59, seconds := 59, bright := false }
    ∃ t, ClockLegal s.wallTime ∧ s.pmode ≠ .setTime ∧ (s.bright = false ↔ IsDim s.hours.toNat s.meridiem) ∧
      exec .tick s = .next t ∧ t.bright ≠ s.bright := by
  refine ⟨_, by simp [ClockLegal, State.wallTime], by decide, ?_, rfl, by decide⟩
  simp [IsDim, idle, State.reset, State.resetWith, ResetValues.standard]

/-! ## Runs that keep the periods (R164, R232)

The predicates of Safety.lean are met by a run, and not by every run. -/

/-- Channel 0 alone in force. -/
def armed : State := { idle with chan0 := running.chan0 }

/-- A run of ticks from it. -/
def ticking : Nat → State
  | 0 => armed
  | n + 1 => tick chip (ticking n)

theorem ticking_keeps (n : Nat) :
    (ticking n).wallTime.legal = true ∧ (ticking n).chan0 = running.chan0 ∧ (ticking n).chan1.en = false ∧
      (ticking n).hctx = .none ∧ (ticking n).inputs = [] ∧ (ticking n).trace = [] := by
  induction n with
  | zero => decide
  | succ n ih =>
    obtain ⟨h1, h2, h3, h4, h5, h6⟩ := ih
    refine ⟨by rw [ticking, tick_wallTime]; exact cascade_legal h1, ?_, ?_, ?_, ?_, ?_⟩
    all_goals
      rw [ticking, tick_frame]
      assumption

/-- An unending run on which a second passes at each step is on time. -/
theorem witness_OnTime : IsRun chip ticking (fun _ => .event 0x00) ∧ OnTime chip ticking (fun _ => .event 0x00) := by
  have inputs (n : Nat) : { ticking n with inputs := [] } = ticking n := by
    rw [← (ticking_keeps n).2.2.2.2.1]
  refine ⟨fun n => ?_, fun n => ⟨n, le_rfl, .inr ?_⟩, fun n => ⟨n, le_rfl, .inl (ticking_keeps n).2.2.1⟩, ?_⟩
  · obtain ⟨h1, h2, -, h4, -, -⟩ := ticking_keeps n
    rw [stepWith, transition_event rfl]
    refine (congrArg (deliverEvent (execWith chip) 0x00) (inputs n)).trans ?_
    exact (takeFiring_runs (by rw [chan_ch0, h2]; rfl) (by rw [chan_ch0, h2]; rfl) h4).trans (tickWith_next.2 ⟨h1, rfl⟩)
  · show (true && (ticking n).chan0.en) = true
    rw [(ticking_keeps n).2.1]
    rfl
  · intro m n _ _ _ _ _
    exact ⟨[], by rw [(ticking_keeps n).2.2.2.2.2, (ticking_keeps (m + 1)).2.2.2.2.2]; rfl, Nat.zero_le _⟩

/-- An unending run on which channel 0 is in force and never fires is a run, and is not on time. -/
theorem test_a_silent_channel_is_not_on_time :
    IsRun chip (fun _ => armed) (fun _ => .wait) ∧ ¬ FiresAgain .ch0 (fun _ => armed) (fun _ => .wait) :=
  ⟨fun _ => rfl, fun h => by
    obtain ⟨m, -, h | h⟩ := h 0
    · cases (show true = false from h)
    · cases (show false = true from h)⟩

end Sys2Proof.Tests
end

section
/-! PROOFS. The family of 00_scope.md: the invariant at reset and over every step, and the defaults the machine runs with. -/

open Sys2Proof Sys2Proof.Machine Sys2Proof.Claims

namespace Sys2Proof.Proofs

/-! ## The invariant at reset -/

/-- R35: at reset no pass is in progress, no handler runs, both channels are unregistered and every output is blank, so that
beside the two records, which `ResetValues` keeps legal, nothing depends on the `RST.*` values. -/
theorem inv_resetWith (r : ResetValues) : (State.resetWith r).Inv where
  clock := (resetWith_legal r).1
  alarm := (resetWith_legal r).2
  cursor := Nat.succ_pos _
  rot := Nat.zero_le _
  tlen := Nat.zero_le _
  text := rfl
  fault := Nat.zero_le _
  blanked := fun _ => ⟨rfl, rfl⟩
  selected := nofun
  handler := ⟨nofun, nofun⟩
  foreground := nofun
  channel0 := rfl
  channel1 := rfl
  period0 := nofun
  placed := nofun

/-- Settles O18: the machine's reset is the reset under its configuration, and every legal choice of `RST.*` meets the invariant. -/
theorem resetMeetsTheInvariant : Obligations.ResetMeetsTheInvariant :=
  ⟨inv_resetWith .standard, inv_resetWith⟩

/-! ## The invariant over a step -/

/-- The invariant does not speak of the level of `SW_N` (R27, U4). -/
theorem inv_line {s : State} (l : Level) (h : s.Inv) : State.Inv { s with swN := l } :=
  ⟨h.clock, h.alarm, h.cursor, h.rot, h.tlen, h.text, h.fault, h.blanked, h.selected, h.handler,
    h.foreground, h.channel0, h.channel1, h.period0, h.placed⟩

/-- R220: power-on leads to the invariant from any state; what it keeps is the environment's alone. -/
theorem inv_powerOn (cfg : Config) (s : State) : (powerOn cfg s).Inv :=
  have h := inv_resetWith cfg.rst
  ⟨h.clock, h.alarm, h.cursor, h.rot, h.tlen, h.text, h.fault, h.blanked, h.selected, h.handler,
    h.foreground, h.channel0, h.channel1, h.period0, h.placed⟩

section
variable {cfg : Config} (hcfg : LegalConfig cfg)
include hcfg

/-- R164, R195, R196, R201: a firing is without effect, runs its callback, or sets its latch; each keeps the invariant. -/
theorem inv_takeFiring {s t : State} {c : Channel} (h : s.Inv)
    (hf : takeFiring (execWith cfg c.callback) c s = .next t) : t.Inv := by
  obtain ⟨-, rfl⟩ | ⟨hen, -, hnone, hrun⟩ | ⟨hen, -, hhandler, rfl⟩ := takeFiring_cases hf
  · exact h
  · exact inv_callback hcfg h hnone hen hrun
  · exact inv_latch c h hen hhandler

/-- R60, R67: a word given where the host may step is executed or refused; each keeps the invariant. -/
theorem inv_giveCommand {s t : State} {w : CommandWord} (h : s.Inv) (hm : s.hostMayStep = true)
    (hg : giveCommand (execWith cfg) w s = .next t) : t.Inv := by
  obtain ⟨i, hdec, hrun⟩ | ⟨r, -, rfl⟩ := giveCommand_cases hg
  · exact inv_command hcfg h (decodeCommand_isCommand hdec) hm hrun
  · exact inv_refuse r h

/-- R14, R50: the invariant is inductive, one case for each kind of transition. -/
theorem inv_stepWith {s t : State} (h : s.Inv) (hs : stepWith cfg s = .next t) : t.Inv := by
  obtain ⟨l, rest, -, rfl⟩ | ⟨rest, -, rfl⟩ | ⟨ev, rest, c, -, -, hf⟩ | ⟨w, rest, -, hm, hg⟩ | ⟨u, hu, hown⟩ :=
    transition_cases hs
  · exact inv_line l (inv_inputs rest h)
  · exact inv_powerOn cfg _
  · exact inv_takeFiring hcfg (inv_inputs rest h) hf
  · exact inv_giveCommand hcfg (inv_inputs rest h) hm hg
  · obtain rfl | ⟨rest, -, rfl⟩ := hu
    · exact inv_ownStep hcfg h hown
    · exact inv_ownStep hcfg (inv_inputs rest h) hown

end

/-- Settles O19: the machine is a step relation that keeps the invariant, at the legal configuration `chip`. -/
theorem stepKeepsTheInvariant : Obligations.StepKeepsTheInvariant :=
  ⟨fun s _ h hs => inv_stepWith chip_legal h (step_eq_stepWith s ▸ hs), fun _ hc _ _ => inv_stepWith hc⟩

/-! ## The defaults of the machine -/

/-- R82: the default digit table is the table of the numerals. -/
theorem digitOf_chip : ∀ d : Nat, d ≤ 9 → digitOf chip d = numerals.getD d 0 := by decide

/-- R83 to R85: the default character table, computed from the code's class, is the table of the glyphs, on all 256 codes. -/
theorem defaultChar_eq_glyph : ∀ c : Byte, defaultChar c = glyph c := by decide

/-- Settles O29: the two tables agree with those of the spec, and the machine is the step relation at `chip`, which is legal. -/
theorem chipHoldsTheDefaultTables : Obligations.ChipHoldsTheDefaultTables :=
  ⟨digitOf_chip, defaultChar_eq_glyph, rfl, rfl, rfl, reset_eq, chip_legal, step_eq_stepWith, exec_eq⟩

end Sys2Proof.Proofs
end

section
/-! PROOFS. The family of 10_state.md: a level change and the reset values, then who may write which piece of state (R34). Every step is
read once, in `step_cases`; the statements about the outputs, `FAULT`, the channels and the host's registers each cite it. -/

open Sys2Proof Sys2Proof.Machine Sys2Proof.Claims

namespace Sys2Proof.Proofs

/-- Settles O15: a level input comes first in the schedule, so `arbitrate` takes it whatever else is in progress. -/
theorem lineChangeIsOneTransition : Obligations.LineChangeIsOneTransition := fun _ _ _ h => transition_line h

/-- Settles O16: the table of R35 is `State.resetWith` at the defaults; the empty text reads `0x00` at every index. -/
theorem resetLeavesTheTabledValues : Obligations.ResetLeavesTheTabledValues :=
  ⟨rfl, rfl, rfl, rfl, rfl, rfl, fun _ => rfl, rfl, rfl, rfl, rfl, rfl, rfl, rfl, rfl, rfl, rfl, rfl, rfl, rfl, rfl, rfl, rfl,
    rfl, rfl⟩

/-! ## What a command can do -/

/-- `Executes i s d u`: command `i` given in `s` is executed, makes the state `u` and then answers `d` (R87 to R89, R161 to R163, R180 to
R184). One constructor for each command that completes at once, its guards as premises. -/
inductive Executes : Instr → State → Byte → State → Prop
  | encd {d p s} (hp : encDigit chip d = some p) : Executes (.encd d) s p { s with encout := p }
  | encc {c s} : Executes (.encc c) s (encChar chip c) { s with encout := encChar chip c }
  | encp {g p s} (hp : encPunctuation chip g = some p) : Executes (.encp g) s p { s with encout := p }
  | treg {ch ms c s} (hc : channelOf ch = some c) (hp : periodLegal c ms = true) :
      Executes (.treg ch ms) s 0x00 (s.setChan c { reg := true, en := true, period := ms, pend := false })
  | trev {ch c s} (hc : channelOf ch = some c) (hr : (s.chan c).reg = true) :
      Executes (.trev ch) s 0x00 (s.setChan c { s.chan c with en := false, pend := false })
  | trst {ch c s} (hc : channelOf ch = some c) (hr : (s.chan c).reg = true) :
      Executes (.trst ch) s 0x00 (s.setChan c { s.chan c with en := true })
  | wr {r v reg s} (hr : regOf r = some reg) (hw : regReadOnly reg = false) (hl : regLegal reg v = true) :
      Executes (.wr r v) s 0x00 (regWrite reg v s)
  | rd {r reg s} (hr : regOf r = some reg) : Executes (.rd r) s (regRead reg s) s
  | wrt {j c s} (hj : textIndexLegal j = true) :
      Executes (.wrt j c) s 0x00 { s with text := Memory.write s.text j.toNat c }
  | rdt {j s} (hj : textIndexLegal j = true) : Executes (.rdt j) s (Memory.read s.text j.toNat) s
  | regen {s} : Executes .regen s 0x00 (regenerate chip s)

/-- R68, R102, R191: a command is refused, or it is a RENDER that is admitted, or it is executed and answers. -/
theorem exec_command_cases {i : Instr} {s t : State} (hi : i.isCommand = true) (h : exec i s = .next t) :
    (∃ r, t = refuse r s) ∨
    (∃ n, i = .render n ∧ s.chan1.en = false ∧ t = startPass .foreground n s) ∨
    (∃ d u, Executes i s d u ∧ t = respond d u) := by
  cases i <;> simp only [Instr.isCommand, Bool.false_eq_true] at hi <;>
    simp only [exec, execEncd, encdWith, execEncc, enccWith, encoderResult, execEncp, encpWith, execRender, execTreg, execTrev,
      execTrst, execWr, execRd, execWrt, execRdt, execRegen, regenWith] at h
  case encc => cases h; exact .inr (.inr ⟨_, _, .encc, rfl⟩)
  case regen => cases h; exact .inr (.inr ⟨_, _, .regen, rfl⟩)
  case encd | encp | wrt | rdt =>
    split at h <;> cases h
    · exact .inr (.inr ⟨_, _, by constructor; assumption, rfl⟩)
    · exact .inl ⟨_, rfl⟩
  case rd =>
    split at h <;> cases h
    · exact .inl ⟨_, rfl⟩
    · exact .inr (.inr ⟨_, _, .rd ‹_›, rfl⟩)
  case render n =>
    split at h <;> cases h
    · exact .inl ⟨_, rfl⟩
    · exact .inr (.inl ⟨n, rfl, Bool.eq_false_iff.2 ‹_›, rfl⟩)
  case treg | trev | trst =>
    split at h
    · cases h; exact .inl ⟨_, rfl⟩
    · split at h <;> cases h
      · exact .inr (.inr ⟨_, _, by constructor <;> assumption, rfl⟩)
      · exact .inl ⟨_, rfl⟩
  case wr =>
    split at h
    · cases h; exact .inl ⟨_, rfl⟩
    · split at h
      · cases h; exact .inl ⟨_, rfl⟩
      · split at h <;> cases h
        · exact .inr (.inr ⟨_, _, .wr ‹_› (Bool.eq_false_iff.2 ‹_›) ‹_›, rfl⟩)
        · exact .inl ⟨_, rfl⟩

/-- R34: what an executed command can reach before it answers; everything else is as it was. -/
theorem Executes.frame {i : Instr} {s u : State} {d : Byte} (h : Executes i s d u) :
    u = { s with
      hours := u.hours, minutes := u.minutes, seconds := u.seconds, meridiem := u.meridiem, blink := u.blink
      aHours := u.aHours, aMinutes := u.aMinutes, aSeconds := u.aSeconds, aMeridiem := u.aMeridiem
      bright := u.bright, pmode := u.pmode, dmode := u.dmode, cursor := u.cursor, rot := u.rot, text := u.text
      tlen := u.tlen, buzz := u.buzz, ringing := u.ringing, encout := u.encout, chan0 := u.chan0, chan1 := u.chan1 } := by
  cases h with
  | wr => exact regWrite_frame .. ▸ rfl
  | treg | trev | trst => exact setChan_frame .. ▸ rfl
  | _ => rfl

/-- A channel is one of two pieces of state (R28). -/
theorem chan_congr {s t : State} (h0 : t.chan0 = s.chan0) (h1 : t.chan1 = s.chan1) (c : Channel) : t.chan c = s.chan c := by
  cases c
  · exact h0
  · exact h1

/-- R34: of the executed commands only TREG, TREV and TRST write a channel. -/
theorem Executes.chan {i : Instr} {s u : State} {d : Byte} (h : Executes i s d u) (c : Channel) :
    u.chan c = s.chan c ∨ ∃ ch ms, i = .treg ch ms ∨ i = .trev ch ∨ i = .trst ch := by
  cases h with
  | treg => exact .inr ⟨_, _, .inl rfl⟩
  | trev => exact .inr ⟨_, 0, .inr (.inl rfl)⟩
  | trst => exact .inr ⟨_, 0, .inr (.inr rfl)⟩
  | wr => left; rw [regWrite_frame]; exact chan_congr rfl rfl c
  | _ => exact .inl (chan_congr rfl rfl c)

/-- R16, R18, R19, R24: the registers only the host writes. -/
def hostRegisters (s : State) : TimeOfDay × ProgramMode × DisplayMode × Bool := (s.alarmTime, s.pmode, s.dmode, s.ringing)

/-- R34: of the executed commands only WR writes one of the host's registers. -/
theorem Executes.hostRegisters {i : Instr} {s u : State} {d : Byte} (h : Executes i s d u) :
    hostRegisters u = hostRegisters s ∨ ∃ r v, i = .wr r v := by
  cases h with
  | wr => exact .inr ⟨_, _, rfl⟩
  | treg | trev | trst => left; rw [setChan_frame]; rfl
  | _ => exact .inl rfl

/-! ## What a micro-step can do -/

/-- R121: a completed pass is over; a foreground pass adds its response, a refresh pass leaves the handler. -/
theorem complete_frame (s : State) :
    complete s = { s with seqActive := false, hctx := (complete s).hctx, responses := (complete s).responses } := by
  unfold complete
  split <;> rfl

/-- R121: the one response a completion can add has status `0x00`. -/
theorem complete_responses (s : State) :
    (complete s).responses = s.responses ∨ (complete s).responses = s.responses ++ [responseWord 0x00 0x00] := by
  unfold complete
  split
  · exact .inr rfl
  · exact .inl rfl

/-- R116, R121: the last micro-step completes the pass, of a state that differs in `ROT` and `CURSOR` at most. -/
theorem scrollStep_eq_complete (s : State) : ∃ rot cursor, scrollStep s = complete { s with rot := rot, cursor := cursor } := by
  unfold scrollStep
  split
  · exact ⟨s.rot, s.cursor, rfl⟩
  · exact ⟨_, _, congrArg complete (scrollAdvance_frame s)⟩

/-- R103: what phase BLANK writes. -/
theorem blankStep_frame (cfg : Config) (s : State) :
    blankStep cfg s = { blankAll cfg s with
      seqPos := (blankStep cfg s).seqPos, seqPhase := (blankStep cfg s).seqPhase } := by
  unfold blankStep
  split <;> rfl

/-- R103, R118: what phase SIRENCHK writes. -/
theorem sirenChkStep_frame (s : State) :
    sirenChkStep s = { s with
      seqRep := (sirenChkStep s).seqRep, seqPos := (sirenChkStep s).seqPos, seqPhase := (sirenChkStep s).seqPhase
      trace := (sirenChkStep s).trace } := by
  unfold sirenChkStep
  split <;> rfl

/-- R103: what a micro-step does, phase by phase. -/
theorem microStep_cases {cfg : Config} {s t : State} (h : microStep cfg s = .next t) :
    (s.seqPhase = .drive ∧ s.seqRep = s.seqN ∧ t = { s with seqPhase := .scroll }) ∨
    (s.seqPhase = .drive ∧ s.seqRep ≠ s.seqN ∧ ∃ pat, slotPattern cfg s s.seqPos = .ok pat ∧
      t = { drive s.seqPos pat (dwell cfg s) s with seqPhase := .blank }) ∨
    (s.seqPhase = .blank ∧ t = blankStep cfg s) ∨
    (s.seqPhase = .sirenChk ∧ t = sirenChkStep s) ∨
    (s.seqPhase = .sirenClr ∧ t = sirenClrStep s) ∨
    (s.seqPhase = .scroll ∧ t = scrollStep s) := by
  unfold microStep at h
  cases hp : s.seqPhase <;> simp only [hp] at h
  case drive =>
    unfold driveStep at h
    split at h
    case isTrue hn => cases h; exact .inl ⟨rfl, hn, rfl⟩
    case isFalse hn => split at h <;> cases h; exact .inr (.inl ⟨rfl, hn, _, ‹_›, rfl⟩)
  case blank => cases h; exact .inr (.inr (.inl ⟨rfl, rfl⟩))
  case sirenChk => cases h; exact .inr (.inr (.inr (.inl ⟨rfl, rfl⟩)))
  case sirenClr => cases h; exact .inr (.inr (.inr (.inr (.inl ⟨rfl, rfl⟩))))
  case scroll => cases h; exact .inr (.inr (.inr (.inr (.inr ⟨rfl, rfl⟩))))

/-- R34, R103: what a micro-step can reach; everything else is as it was. -/
theorem microStep_frame {cfg : Config} {s t : State} (h : microStep cfg s = .next t) :
    t = { s with
      seg := t.seg, pos := t.pos, buzz := t.buzz, rot := t.rot, cursor := t.cursor, hctx := t.hctx
      seqActive := t.seqActive, seqRep := t.seqRep, seqPos := t.seqPos, seqPhase := t.seqPhase, trace := t.trace
      responses := t.responses } := by
  obtain ⟨-, -, rfl⟩ | ⟨-, -, pat, -, rfl⟩ | ⟨-, rfl⟩ | ⟨-, rfl⟩ | ⟨-, rfl⟩ | ⟨-, rfl⟩ := microStep_cases h
  · rfl
  · rfl
  · rw [blankStep_frame]; rfl
  · rw [sirenChkStep_frame]
  · rfl
  · obtain ⟨rot, cursor, hs⟩ := scrollStep_eq_complete s
    rw [hs, complete_frame]

/-- R25, R26: the two registers of the outputs. -/
def outputs (s : State) : Byte × Select := (s.seg, s.pos)

/-- R103, R115: only the phases DRIVE and BLANK write the outputs. -/
theorem microStep_outputs {cfg : Config} {s t : State} (h : microStep cfg s = .next t) :
    s.seqPhase = .drive ∨ s.seqPhase = .blank ∨ outputs t = outputs s := by
  obtain ⟨hp, -⟩ | ⟨hp, -⟩ | ⟨hp, -⟩ | ⟨-, rfl⟩ | ⟨-, rfl⟩ | ⟨-, rfl⟩ := microStep_cases h
  · exact .inl hp
  · exact .inl hp
  · exact .inr (.inl hp)
  · rw [sirenChkStep_frame]; exact .inr (.inr rfl)
  · exact .inr (.inr rfl)
  · obtain ⟨rot, cursor, hs⟩ := scrollStep_eq_complete s
    rw [hs, complete_frame]
    exact .inr (.inr rfl)

/-- R68, R121: the one response a micro-step can add has status `0x00`. -/
theorem microStep_responses {cfg : Config} {s t : State} (h : microStep cfg s = .next t) :
    t.responses = s.responses ∨ t.responses = s.responses ++ [responseWord 0x00 0x00] := by
  obtain ⟨-, -, rfl⟩ | ⟨-, -, pat, -, rfl⟩ | ⟨-, rfl⟩ | ⟨-, rfl⟩ | ⟨-, rfl⟩ | ⟨-, rfl⟩ := microStep_cases h
  · exact .inl rfl
  · exact .inl rfl
  · rw [blankStep_frame]; exact .inl rfl
  · rw [sirenChkStep_frame]; exact .inl rfl
  · exact .inl rfl
  · obtain ⟨rot, cursor, hs⟩ := scrollStep_eq_complete s
    rw [hs]
    exact complete_responses _

/-! ## What everything else leaves -/

/-- R28: registration, in-force bit and period of a channel, all but its latch. -/
def settings (t : TimerChannel) : Bool × Bool × Half := (t.reg, t.en, t.period)

/-- R34: what a transition that is neither a command nor a micro-step nor power-on leaves as it was. -/
structure Background (s t : State) : Prop where
  outputs : outputs t = outputs s
  hostRegisters : hostRegisters t = hostRegisters s
  settings : ∀ c, settings (t.chan c) = settings (s.chan c)
  faultReg : t.faultReg = s.faultReg
  responses : t.responses = s.responses

theorem Background.trans {s t u : State} (h : Background s t) (h' : Background t u) : Background s u where
  outputs := h'.outputs.trans h.outputs
  hostRegisters := h'.hostRegisters.trans h.hostRegisters
  settings c := (h'.settings c).trans (h.settings c)
  faultReg := h'.faultReg.trans h.faultReg
  responses := h'.responses.trans h.responses

/-- The schedule, the level of `SW_N` and the count of choices are the environment's (R10, R27, R197). -/
theorem background_environment (s : State) (l : Level) (ins : List Input) (n : Nat) :
    Background s { s with swN := l, inputs := ins, choice := n } :=
  ⟨rfl, rfl, fun c => congrArg settings (chan_congr rfl rfl c), rfl, rfl⟩

/-- R196, R199: a latch that is set or cleared is all that is written. -/
theorem background_pend (s : State) (c : Channel) (b : Bool) : Background s (s.setChan c { s.chan c with pend := b }) := by
  cases c <;> exact ⟨rfl, rfl, fun d => by cases d <;> rfl, rfl, rfl⟩

/-- R34: a TICK writes the clock, the text and three flags, a REFRESH the two contexts. -/
theorem background_callback {s t : State} {c : Channel} (h : exec c.callback s = .next t) : Background s t := by
  cases c
  case ch0 =>
    obtain ⟨-, rfl⟩ := tickWith_next.1 h
    rw [tick_frame]
    exact ⟨rfl, rfl, fun d => congrArg settings (chan_congr rfl rfl d), rfl, rfl⟩
  case ch1 =>
    cases h
    exact ⟨rfl, rfl, fun d => congrArg settings (chan_congr rfl rfl d), rfl, rfl⟩

/-- R164, R195, R196, R201: a firing is without effect, runs its callback or sets its latch. -/
theorem background_takeFiring {s t : State} {c : Channel} (h : takeFiring (exec c.callback) c s = .next t) :
    Background s t := by
  obtain ⟨-, rfl⟩ | ⟨-, -, -, hrun⟩ | ⟨-, -, -, rfl⟩ := takeFiring_cases h
  · exact background_environment ..
  · exact background_callback hrun
  · exact background_pend ..

/-! ## What a step can do -/

/-- Who moves next, read off the schedule: an input is taken, or the block makes its own transition, from a state whose schedule
alone may differ. -/
theorem arbitrate_cases (s : State) :
    (∃ l rest, s.inputs = .line l :: rest) ∨ PowerComing s ∨ (∃ ev rest, s.inputs = .event ev :: rest) ∨
    (∃ w rest, s.inputs = .command w :: rest ∧ s.hostMayStep = true) ∨
    (∃ rest, arbitrate s = ownAction { s with inputs := rest }) := by
  cases hi : s.inputs with
  | nil => exact .inr (.inr (.inr (.inr ⟨s.inputs, (by simp [arbitrate, hi] : _ = ownAction s)⟩)))
  | cons e rest =>
    cases e with
    | line l => exact .inl ⟨l, rest, rfl⟩
    | powerOn => exact .inr (.inl ⟨rest, hi⟩)
    | event ev => exact .inr (.inr (.inl ⟨ev, rest, rfl⟩))
    | command w =>
      cases hm : s.hostMayStep with
      | true => exact .inr (.inr (.inr (.inl ⟨w, rest, rfl, rfl⟩)))
      | false => exact .inr (.inr (.inr (.inr ⟨s.inputs, (by simp [arbitrate, hi, hm] : _ = ownAction s)⟩)))
    | wait => exact .inr (.inr (.inr (.inr ⟨rest, by simp [arbitrate, hi]⟩)))

/-- R50, R34: a step other than power-on is done in the background, or, from a state `u` with its input taken, it is a
micro-step, a refusal, an admitted RENDER or an executed command. -/
theorem step_cases {s t : State} (h : step s = .next t) (hpow : ¬ PowerComing s) :
    Background s t ∨
    ∃ u, Background s u ∧
      ((arbitrate s = (.sequencer, u) ∧ s.seqActive = true ∧ microStep chip u = .next t) ∨
       (∃ r, t = refuse r u) ∨
       (∃ n, HostGives s (.render n) ∧ u.chan1.en = false ∧ t = startPass .foreground n u) ∨
       (∃ i d v, HostGives s i ∧ Executes i u d v ∧ t = respond d v)) := by
  obtain ⟨l, rest, hi⟩ | hp | ⟨ev, rest, hi⟩ | ⟨w, rest, hi, hm⟩ | ⟨rest, harb⟩ := arbitrate_cases s
  · cases (transition_line hi).symm.trans h
    exact .inl (background_environment ..)
  · exact absurd hp hpow
  · rw [step_eq, transition_event hi, deliverEvent] at h
    split at h
    · exact .inl ((background_environment ..).trans (background_takeFiring h))
    · cases h
  · rw [step_eq, transition_command hi hm] at h
    refine .inr ⟨{ s with inputs := rest }, background_environment .., .inr ?_⟩
    obtain ⟨i, hdec, hrun⟩ | ⟨r, -, rfl⟩ := giveCommand_cases h
    · have hgives : HostGives s i := ⟨w, rest, hi, hdec⟩
      obtain ⟨r, rfl⟩ | ⟨n, rfl, hforce, rfl⟩ | ⟨d, v, hexec, rfl⟩ := exec_command_cases (decodeCommand_isCommand hdec) hrun
      · exact .inl ⟨r, rfl⟩
      · exact .inr (.inl ⟨n, hgives, hforce, rfl⟩)
      · exact .inr (.inr ⟨i, d, v, hgives, hexec, rfl⟩)
    · exact .inl ⟨r, rfl⟩
  · rw [step_eq, transition_own harb, ownStep] at h
    have htaken : Background s { s with inputs := rest } := background_environment ..
    obtain ⟨c, v, -, -, hv, hown⟩ | ⟨hact, -, hown⟩ | ⟨-, -, hown⟩ := ownAction_cases { s with inputs := rest }
    · rw [hown] at h
      refine .inl (htaken.trans (.trans ?_ ((background_pend v c false).trans (background_callback h))))
      obtain rfl | rfl := hv <;> exact background_environment ..
    · rw [hown] at h
      exact .inr ⟨_, htaken, .inl ⟨harb.trans hown, hact, h⟩⟩
    · rw [hown] at h
      cases h
      exact .inl htaken

/-! ## Who writes what -/

/-- Settles O22: of the cases of a step only a micro-step reaches `SEG` and `POS`, and of its phases only DRIVE and BLANK do. -/
theorem onlyTheSequencerDrivesTheOutputs : Obligations.OnlyTheSequencerDrivesTheOutputs := by
  intro s t h hpow hchange
  have hout : outputs t ≠ outputs s := fun he => by
    obtain ⟨hseg, hpos⟩ := Prod.mk.inj he
    exact hchange.elim (· hseg) (· hpos)
  obtain hb | ⟨u, hb, ⟨harb, hact, hrun⟩ | ⟨r, rfl⟩ | ⟨n, -, -, rfl⟩ | ⟨i, d, v, -, hexec, rfl⟩⟩ := step_cases h hpow
  · exact absurd hb.outputs hout
  · refine ⟨hact, ?_⟩
    obtain hdrive | hblank | hsame := microStep_outputs hrun
    · exact .inl ⟨u, harb, hrun, hdrive⟩
    · exact .inr ⟨u, harb, hrun, hblank⟩
    · exact absurd (hsame.trans hb.outputs) hout
  · exact absurd hb.outputs hout
  · exact absurd hb.outputs hout
  · exact absurd ((congrArg outputs hexec.frame).trans hb.outputs) hout

/-- R31, R191: a step other than power-on adds the response of a refusal and gives `FAULT` its code if it has none, or it leaves `FAULT`
and adds at most a response of status `0x00`. -/
theorem step_faultReg {s t : State} (h : step s = .next t) (hpow : ¬ PowerComing s) :
    (∃ r, t.faultReg = (if s.faultReg = 0 then refuseCode r else s.faultReg) ∧
      t.responses = s.responses ++ [responseWord (refuseCode r) 0x00]) ∨
    (t.faultReg = s.faultReg ∧
      (t.responses = s.responses ∨ ∃ d, t.responses = s.responses ++ [responseWord 0x00 d])) := by
  obtain hb | ⟨u, hb, ⟨-, -, hrun⟩ | ⟨r, rfl⟩ | ⟨n, -, -, rfl⟩ | ⟨i, d, v, -, hexec, rfl⟩⟩ := step_cases h hpow
  · exact .inr ⟨hb.faultReg, .inl hb.responses⟩
  · rw [← hb.faultReg, ← hb.responses]
    exact .inr ⟨by rw [microStep_frame hrun], (microStep_responses hrun).imp_right fun hr => ⟨_, hr⟩⟩
  · rw [← hb.faultReg, ← hb.responses]
    exact .inl ⟨r, rfl, rfl⟩
  · exact .inr ⟨hb.faultReg, .inl hb.responses⟩
  · rw [← hb.faultReg, ← hb.responses, respond_responses, respond_faultReg, hexec.frame]
    exact .inr ⟨rfl, .inr ⟨d, rfl⟩⟩

/-- R68: a response is its status and its data. -/
theorem status_eq_of_append_eq {status data status' data' : Byte} (h : status ++ data = status' ++ data') :
    status = status' := by
  have hnum := congrArg BitVec.toNat h
  rw [toNat_append_eq, toNat_append_eq] at hnum
  apply BitVec.eq_of_toNat_eq
  omega

/-- Settles O24: `step_faultReg` for every step but power-on; the response pins the code since a response is its status and its data. -/
theorem faultKeepsTheFirstCode : Obligations.FaultKeepsTheFirstCode := by
  intro s t h
  refine ⟨?_, fun hpow hne => ?_, fun hpow hzero hset => ?_, fun hpow hzero code data hresp hcode => ?_⟩
  · rintro ⟨rest, hi⟩
    cases (transition_powerOn hi).symm.trans h
    rfl
  · obtain ⟨r, hfault, -⟩ | ⟨hfault, -⟩ := step_faultReg h hpow
    · rw [hfault, if_neg hne]
    · exact hfault
  · obtain ⟨r, hfault, hresp⟩ | ⟨hfault, -⟩ := step_faultReg h hpow
    · rw [if_pos hzero] at hfault
      rw [hresp, hfault, responseWord]
    · exact absurd (hfault.trans hzero) hset
  · obtain ⟨r, hfault, hadded⟩ | ⟨-, hsame | ⟨d, hadded⟩⟩ := step_faultReg h hpow
    · rw [hfault, if_pos hzero]
      exact status_eq_of_append_eq (List.singleton_inj.1 (List.append_cancel_left (hadded.symm.trans hresp)))
    · simp [hsame] at hresp
    · exact absurd (status_eq_of_append_eq (List.singleton_inj.1 (List.append_cancel_left (hadded.symm.trans hresp)))).symm
        hcode

/-- Settles O39: of the cases of a step only an executed command reaches a channel's settings, and of the commands only TREG, TREV and
TRST do. -/
theorem onlyTimerCommandsChangeAChannel : Obligations.OnlyTimerCommandsChangeAChannel := by
  intro s t c h hpow hchange
  have hset : settings (t.chan c) ≠ settings (s.chan c) := fun he => by
    simp only [settings, Prod.mk.injEq] at he
    tauto
  obtain hb | ⟨u, hb, ⟨-, -, hrun⟩ | ⟨r, rfl⟩ | ⟨n, -, -, rfl⟩ | ⟨i, d, v, hgives, hexec, rfl⟩⟩ := step_cases h hpow
  · exact absurd (hb.settings c) hset
  · have hchan : t.chan c = u.chan c := by rw [microStep_frame hrun]; exact chan_congr rfl rfl c
    exact absurd (hchan ▸ hb.settings c) hset
  · exact absurd ((congrArg settings (chan_congr (s := u) rfl rfl c)).trans (hb.settings c)) hset
  · exact absurd ((congrArg settings (chan_congr (s := u) rfl rfl c)).trans (hb.settings c)) hset
  · have hchan : (respond d v).chan c = v.chan c := chan_congr rfl rfl c
    obtain hsame | ⟨ch, ms, rfl | rfl | rfl⟩ := hexec.chan c
    · exact absurd (hchan.trans hsame ▸ hb.settings c) hset
    · exact ⟨ch, ms, .inl hgives⟩
    · exact ⟨ch, ms, .inr (.inl hgives)⟩
    · exact ⟨ch, ms, .inr (.inr hgives)⟩

/-- Settles O40: of the cases of a step only an executed command reaches the host's registers, and of the commands only WR does. -/
theorem onlyWrChangesTheHostsRegisters : Obligations.OnlyWrChangesTheHostsRegisters := by
  intro s t h hpow hchange
  have hregs : hostRegisters t ≠ hostRegisters s := fun he => by
    simp only [hostRegisters, Prod.mk.injEq] at he
    tauto
  obtain hb | ⟨u, hb, ⟨-, -, hrun⟩ | ⟨r, rfl⟩ | ⟨n, -, -, rfl⟩ | ⟨i, d, v, hgives, hexec, rfl⟩⟩ := step_cases h hpow
  · exact absurd hb.hostRegisters hregs
  · exact absurd ((congrArg hostRegisters (microStep_frame hrun)).trans hb.hostRegisters) hregs
  · exact absurd hb.hostRegisters hregs
  · exact absurd hb.hostRegisters hregs
  · obtain hsame | ⟨r, v', rfl⟩ := hexec.hostRegisters
    · exact absurd (hsame.trans hb.hostRegisters) hregs
    · exact ⟨r, v', hgives⟩

end Sys2Proof.Proofs
end

section
/-! PROOFS. The family of 20_memory.md: what a step can do while a pass is in progress, and what that leaves of what the pass reads. -/

open Sys2Proof Sys2Proof.Machine Sys2Proof.Claims

namespace Sys2Proof.Proofs

/-! ## A step during a pass -/

/-- R102, R199: while a pass is in progress no pending callback is served, since a handler runs or nothing is due. -/
theorem nothing_served_during_pass {s : State} (hinv : s.Inv) (hact : s.seqActive = true) :
    s.hctx = .refresh ∨ (s.due .ch0 = false ∧ s.due .ch1 = false) := by
  cases hctx : s.seqCtx with
  | refresh => exact .inl (hinv.handler.2 ⟨hact, hctx⟩)
  | foreground =>
    obtain ⟨hen, hpend⟩ := hinv.foreground hact hctx
    exact .inr ⟨by simp [State.due, hpend], by simp [State.due, hen]⟩

/-- R102, R103: while a pass is in progress the block's own transition is the sequencer's. -/
theorem ownAction_during_pass {s : State} (hinv : s.Inv) (hact : s.seqActive = true) :
    ownAction s = (.sequencer, s) := by
  obtain ⟨c, v, hnone, hdue, -, -⟩ | ⟨-, -, hown⟩ | ⟨hidle, -, -⟩ := ownAction_cases s
  · obtain href | ⟨hdue0, hdue1⟩ := nothing_served_during_pass hinv hact
    · cases hnone.symm.trans href
    · cases c
      · cases hdue.symm.trans hdue0
      · cases hdue.symm.trans hdue1
  · exact hown
  · cases hact.symm.trans hidle

/-- R62: the event code of a channel, read back. -/
theorem eq_eventCode_of_decodeEvent {ev : Byte} {c : Channel} (h : decodeEvent ev = some c) : ev = c.eventCode := by
  unfold decodeEvent at h
  split_ifs at h <;> cases h <;> assumption

/-- R50, R185: a step during a pass, other than power-on, is a change of level, a firing, or a micro-step. -/
theorem pass_step_cases {s t : State} (hinv : s.Inv) (hact : s.seqActive = true) (hpow : ¬ PowerComing s)
    (h : step s = .next t) :
    (∃ l rest, s.inputs = .line l :: rest ∧ t = { s with swN := l, inputs := rest }) ∨
    (∃ c rest, s.inputs = .event c.eventCode :: rest ∧ takeFiring (exec c.callback) c { s with inputs := rest } = .next t) ∨
    (∃ rest, arbitrate s = (.sequencer, { s with inputs := rest }) ∧ microStep chip { s with inputs := rest } = .next t) := by
  obtain ⟨l, rest, hi⟩ | hp | ⟨ev, rest, hi⟩ | ⟨w, rest, hi, hm⟩ | ⟨rest, harb⟩ := arbitrate_cases s
  · cases (transition_line hi).symm.trans h
    exact .inl ⟨l, rest, hi, rfl⟩
  · exact absurd hp hpow
  · rw [step_eq, transition_event hi, deliverEvent] at h
    split at h
    next c hdec => exact .inr (.inl ⟨c, rest, eq_eventCode_of_decodeEvent hdec ▸ hi, h⟩)
    next => cases h
  · obtain ⟨-, hidle, -, -⟩ := hostMayStep_iff.1 hm
    cases hact.symm.trans hidle
  · have hown := ownAction_during_pass (inv_inputs rest hinv) hact
    rw [step_eq, transition_own harb, ownStep, hown] at h
    exact .inr (.inr ⟨rest, harb.trans hown, h⟩)

/-- R103: beside the outputs and its own place in the loop the sequencer writes something in the phases SIRENCLR and SCROLL alone. -/
theorem microStep_writes {cfg : Config} {s t : State} (h : microStep cfg s = .next t) :
    (s.seqPhase = .sirenClr ∧ t = sirenClrStep s) ∨ (s.seqPhase = .scroll ∧ t = scrollStep s) ∨
    t = { s with
      seg := t.seg, pos := t.pos, seqRep := t.seqRep, seqPos := t.seqPos, seqPhase := t.seqPhase, trace := t.trace } := by
  obtain ⟨-, -, rfl⟩ | ⟨-, -, pat, -, rfl⟩ | ⟨-, rfl⟩ | ⟨-, rfl⟩ | hclr | hscroll := microStep_cases h
  · exact .inr (.inr rfl)
  · exact .inr (.inr rfl)
  · rw [blankStep_frame]; exact .inr (.inr rfl)
  · rw [sirenChkStep_frame]; exact .inr (.inr rfl)
  · exact .inl hclr
  · exact .inr (.inl hscroll)

/-! ## During the refresh handler -/

/-- Settles O52: a firing is latched or lost, and a micro-step ends the pass, if it does, by the return from the handler, which gives
no response. -/
theorem handlerSeesConstantRegisters : Obligations.HandlerSeesConstantRegisters := by
  intro s t hinv hhandler hpow h
  obtain ⟨hact, hctx⟩ := hinv.handler.1 hhandler
  obtain ⟨l, rest, -, rfl⟩ | ⟨c, rest, -, hfire⟩ | ⟨rest, -, hrun⟩ := pass_step_cases hinv hact hpow h
  · rfl
  · obtain ⟨-, rfl⟩ | ⟨-, -, hnone, -⟩ | ⟨-, -, -, rfl⟩ := takeFiring_cases hfire
    · rfl
    · cases hhandler.symm.trans hnone
    · cases c <;> rfl
  · obtain ⟨-, rfl⟩ | ⟨-, rfl⟩ | hframe := microStep_writes hrun
    · rfl
    · obtain ⟨rot, cursor, hs⟩ := scrollStep_eq_complete { s with inputs := rest }
      rw [hs.trans (complete_refresh hctx)]
    · rw [hframe]

/-! ## During a foreground pass -/

/-- R29: during a foreground pass no handler runs. -/
theorem hctx_none_of_foreground {s : State} (hinv : s.Inv) (hctx : s.seqCtx = .foreground) : s.hctx = .none := by
  cases hh : s.hctx with
  | none => rfl
  | refresh => cases hctx.symm.trans (hinv.handler.1 hh).2

/-- R53, R102, R195: what a firing does during a foreground pass: it is the TICK of channel 0, or it is without effect. -/
theorem foreground_firing {s t : State} {c : Channel} {rest : List Input} (hinv : s.Inv) (hact : s.seqActive = true)
    (hctx : s.seqCtx = .foreground) (hi : s.inputs = .event c.eventCode :: rest)
    (hfire : takeFiring (exec c.callback) c { s with inputs := rest } = .next t) :
    t = { s with inputs := rest } ∨ (IsTick s t ∧ t = tick chip { s with inputs := rest }) := by
  have hnone := hctx_none_of_foreground hinv hctx
  obtain ⟨-, rfl⟩ | ⟨hen, -, -, hrun⟩ | ⟨-, -, hhandler, -⟩ := takeFiring_cases hfire
  · exact .inl rfl
  · cases c with
    | ch0 => exact .inr ⟨⟨rest, hi, hrun⟩, (tickWith_next.1 hrun).2⟩
    | ch1 => cases hen.symm.trans (hinv.foreground hact hctx).1
  · cases hhandler.symm.trans hnone

/-- R53: a step during a foreground pass, other than power-on, and all it can write, the values taken from some `w`: a change of level; the
sequencer's way through its loop, or a firing without effect; a TICK; SIRENCLR; SCROLL. -/
theorem foreground_step_cases {s t : State} (hinv : s.Inv) (hact : s.seqActive = true) (hctx : s.seqCtx = .foreground)
    (hpow : ¬ PowerComing s) (h : step s = .next t) :
    (∃ l rest, s.inputs = .line l :: rest ∧ t = { s with swN := l, inputs := rest }) ∨
    (∃ w : State, t = { s with
      seg := w.seg, pos := w.pos, seqRep := w.seqRep, seqPos := w.seqPos, seqPhase := w.seqPhase, trace := w.trace
      inputs := w.inputs }) ∨
    (IsTick s t ∧ ∃ w : State, t = { s with
      hours := w.hours, minutes := w.minutes, seconds := w.seconds, meridiem := w.meridiem, blink := w.blink
      bright := w.bright, text := w.text, tlen := w.tlen, cursor := w.cursor, buzz := w.buzz, inputs := w.inputs }) ∨
    (IsMicroStep s t .sirenClr ∧ ∃ w : State, t = { s with
      buzz := w.buzz, seqRep := w.seqRep, seqPos := w.seqPos, seqPhase := w.seqPhase, inputs := w.inputs }) ∨
    (IsMicroStep s t .scroll ∧ ∃ w : State, t = { s with
      rot := w.rot, cursor := w.cursor, seqActive := w.seqActive, responses := w.responses, inputs := w.inputs }) := by
  obtain hline | ⟨c, rest, hi, hfire⟩ | ⟨rest, harb, hrun⟩ := pass_step_cases hinv hact hpow h
  · exact .inl hline
  · obtain rfl | ⟨htick, ht⟩ := foreground_firing hinv hact hctx hi hfire
    · exact .inr (.inl ⟨{ s with inputs := rest }, rfl⟩)
    · exact .inr (.inr (.inl ⟨htick, { t with inputs := rest }, by rw [ht, tick_frame]⟩))
  · obtain ⟨hp, ht⟩ | ⟨hp, ht⟩ | hframe := microStep_writes hrun
    · exact .inr (.inr (.inr (.inl ⟨⟨_, harb, hrun, hp⟩, t, by rw [ht]; rfl⟩)))
    · obtain ⟨rot, cursor, hs⟩ := scrollStep_eq_complete { s with inputs := rest }
      replace hs := hs.trans (complete_foreground hctx)
      exact .inr (.inr (.inr (.inr ⟨⟨_, harb, hrun, hp⟩, t, by rw [ht, hs]; rfl⟩)))
    · exact .inr (.inl ⟨{ t with inputs := rest }, hframe⟩)

/-- Settles O53: each case of `foreground_step_cases` shows what it can write, and what it writes of what the pass reads has that case
among its causes. -/
theorem foregroundPassSeesOnlyTicks : Obligations.ForegroundPassSeesOnlyTicks := by
  intro s t hinv hact hctx hpow h
  have hnone := hctx_none_of_foreground hinv hctx
  obtain ⟨l, rest, hi, rfl⟩ | ⟨w, rfl⟩ | ⟨htick, w, rfl⟩ | ⟨hclr, w, rfl⟩ | ⟨hscroll, w, rfl⟩ :=
    foreground_step_cases hinv hact hctx hpow h
  all_goals refine ⟨hnone, rfl, rfl, rfl, rfl, rfl, rfl, rfl, rfl, ?_⟩
  · simp [State.wallTime, hi]
  · simp [State.wallTime]
  · simp [htick]
  · simp [State.wallTime, hclr]
  · simp [State.wallTime, hscroll]

end Sys2Proof.Proofs
end

section
/-! PROOFS. The family of 30_encoding.md: the decoder is read once, in `reading_decodeCommand`; with the encoder's law `decode_encode` and the
rows of `RowShape` it gives each word its one meaning and each refused word its code. Then what a command given to the port does. -/

open Sys2Proof Sys2Proof.Machine Sys2Proof.Claims Sys2Proof.Laws

namespace Sys2Proof.Proofs

/-! ## From the instruction to its word and back -/

/-- R60 to R62: the decoder reads back what the encoder laid down; of the must-be-zero bits only those of a channel operand can be set. -/
theorem decode_encode {i : Instr} (h : i.wellFormed = true) : decode (encode i) = some i := by
  cases i with
  | treg ch ms | trev ch | trst ch =>
    have hch : channelWellFormed ch = true := h
    simp [encode, decode, decodeCommand, whenZero, hch, Except.toOption]
  | tick | refresh => rfl
  | _ => simp [encode, decode, decodeCommand, whenZero, Except.toOption]

/-- Settles O1: `decode_encode`, which splits on the operation. -/
theorem decodeOfEncodeIsTheInstruction : Obligations.DecodeOfEncodeIsTheInstruction := fun _ => decode_encode

/-! ## From the word to its instruction and back -/

/-- R66: the 12 assigned codes of `op`. -/
def assignedOpcodes : List Byte := [0x01, 0x02, 0x03, 0x10, 0x20, 0x21, 0x22, 0x30, 0x31, 0x32, 0x33, 0x40]

/-- R60: a word with these three fields. -/
theorem command_of_fields {w : CommandWord} {op a : Byte} {b : Half} (hop : fieldOp w = op) (ha : fieldA w = a) (hb : fieldB w = b) :
    Encoded.command (commandWord op a b) = .command w := by
  rw [← hop, ← ha, ← hb, commandWord_fields]

/-- R61: with `b[15:8]` zero the operand `b` is the value in `b[7:0]`. -/
theorem fieldB_eq_valueOperand {w : CommandWord} (h : fieldBHigh w = 0) : fieldB w = valueOperand (fieldV w) := by
  rw [fieldB_halves, h, valueOperand]

/-- R61, R66, R67: what the decoder can answer on a word: ILLEGAL_OPCODE where `op` is unassigned, else BAD_OPERAND or a well-formed term
whose word this is. -/
inductive Reading (w : CommandWord) : Except RefuseCode Instr → Prop
  | illegalOpcode (hop : fieldOp w ∉ assignedOpcodes) : Reading w (.error .illegalOpcode)
  | badOperand (hop : fieldOp w ∈ assignedOpcodes) : Reading w (.error .badOperand)
  | instr {i} (hop : fieldOp w ∈ assignedOpcodes) (henc : encode i = .command w) (hwf : i.wellFormed = true) : Reading w (.ok i)

/-- R61, R66: one branch of the decoder: this `op`, whose words free of must-be-zero bits are the words of a term, or the branches below. -/
theorem reading_ite {w : CommandWord} {op : Byte} {mbz : Bool} {i : Instr} {below : Except RefuseCode Instr}
    (hmem : op ∈ assignedOpcodes) (hw : fieldOp w = op → mbz = true → encode i = .command w ∧ i.wellFormed = true)
    (hbelow : fieldOp w ≠ op → Reading w below) : Reading w (if fieldOp w = op then whenZero mbz i else below) := by
  split
  case isTrue hop =>
    cases mbz with
    | false => exact .badOperand (hop ▸ hmem)
    | true =>
      obtain ⟨henc, hwf⟩ := hw hop rfl
      exact .instr (hop ▸ hmem) henc hwf
  case isFalse hop => exact hbelow hop

/-- R66: the decoder branch by branch, each `op` with the fields its words leave free. -/
theorem reading_decodeCommand (w : CommandWord) : Reading w (decodeCommand w) := by
  unfold decodeCommand
  refine reading_ite (by decide) (fun hop hz => ⟨command_of_fields hop rfl (eq_of_beq hz), rfl⟩) fun hencd => ?_
  refine reading_ite (by decide) (fun hop hz => ⟨command_of_fields hop rfl (eq_of_beq hz), rfl⟩) fun hencc => ?_
  refine reading_ite (by decide) (fun hop hz => ⟨command_of_fields hop rfl (eq_of_beq hz), rfl⟩) fun hencp => ?_
  refine reading_ite (by decide) (fun hop hz => ⟨command_of_fields hop (eq_of_beq hz) rfl, rfl⟩) fun hrender => ?_
  refine reading_ite (by decide) (fun hop hz => ⟨command_of_fields hop rfl rfl, hz⟩) fun htreg => ?_
  refine reading_ite (by decide) (fun hop hz => ?_) fun htrev => ?_
  · obtain ⟨hch, hb⟩ := Bool.and_eq_true_iff.1 hz
    exact ⟨command_of_fields hop rfl (eq_of_beq hb), hch⟩
  refine reading_ite (by decide) (fun hop hz => ?_) fun htrst => ?_
  · obtain ⟨hch, hb⟩ := Bool.and_eq_true_iff.1 hz
    exact ⟨command_of_fields hop rfl (eq_of_beq hb), hch⟩
  refine reading_ite (by decide) (fun hop hz => ⟨command_of_fields hop rfl (fieldB_eq_valueOperand (eq_of_beq hz)), rfl⟩) fun hwr => ?_
  refine reading_ite (by decide) (fun hop hz => ⟨command_of_fields hop rfl (eq_of_beq hz), rfl⟩) fun hrd => ?_
  refine reading_ite (by decide) (fun hop hz => ⟨command_of_fields hop rfl (fieldB_eq_valueOperand (eq_of_beq hz)), rfl⟩) fun hwrt => ?_
  refine reading_ite (by decide) (fun hop hz => ⟨command_of_fields hop rfl (eq_of_beq hz), rfl⟩) fun hrdt => ?_
  refine reading_ite (by decide) (fun hop hz => ?_) fun hregen => ?_
  · obtain ⟨ha, hb⟩ := Bool.and_eq_true_iff.1 hz
    exact ⟨command_of_fields hop (eq_of_beq ha) (eq_of_beq hb), rfl⟩
  refine .illegalOpcode ?_
  simp only [assignedOpcodes, List.mem_cons, List.not_mem_nil, or_false, not_or]
  exact ⟨hencd, hencc, hencp, hrender, htreg, htrev, htrst, hwr, hrd, hwrt, hrdt, hregen⟩

/-- R60: a command word stands for what its decoder answers. -/
theorem decode_command_eq_some {w : CommandWord} {i : Instr} : decode (.command w) = some i ↔ decodeCommand w = .ok i := by
  cases hdec : decodeCommand w <;> simp [decode, Except.toOption, hdec]

/-- R60, R61: a command word decodes to the well-formed term whose word it is, and to no other. -/
theorem decodeCommand_eq_ok_iff {w : CommandWord} {i : Instr} :
    decodeCommand w = .ok i ↔ encode i = .command w ∧ i.wellFormed = true := by
  constructor
  · intro h
    have hread := reading_decodeCommand w
    rw [h] at hread
    cases hread with
    | instr _ henc hwf => exact ⟨henc, hwf⟩
  · rintro ⟨henc, hwf⟩
    rw [← decode_command_eq_some, ← henc, decode_encode hwf]

/-- R62: the callback of a channel has the event code of that channel. -/
theorem encode_callback (c : Channel) : encode c.callback = .event c.eventCode := by
  cases c <;> rfl

/-- Settles O2: `decodeCommand_eq_ok_iff` for a command word, `encode_callback` for an event code. -/
theorem encodeOfDecodeIsTheWord : Obligations.EncodeOfDecodeIsTheWord := by
  intro e i h
  cases e with
  | command w => exact decodeCommand_eq_ok_iff.1 (decode_command_eq_some.1 h)
  | event ev =>
    obtain ⟨c, hdec, rfl⟩ := Option.map_eq_some_iff.1 h
    rw [eq_eventCode_of_decodeEvent hdec]
    exact ⟨encode_callback c, by cases c <;> rfl⟩

/-! ## The rows of the table -/

/-- R66: every operation's word lies in its own row. -/
theorem rowShape (i : Instr) : RowShape.Statement i := by
  cases i with
  | encd d => exact RowShape.encd d
  | encc c => exact RowShape.encc c
  | encp g => exact RowShape.encp g
  | render n => exact RowShape.render n
  | treg ch ms => exact RowShape.treg ch ms
  | trev ch => exact RowShape.trev ch
  | trst ch => exact RowShape.trst ch
  | wr r v => exact RowShape.wr r v
  | rd r => exact RowShape.rd r
  | wrt j c => exact RowShape.wrt j c
  | rdt j => exact RowShape.rdt j
  | regen => exact RowShape.regen
  | tick => exact RowShape.tick
  | refresh => exact RowShape.refresh

/-- R66: a decoded word lies in the row of its operation. -/
theorem row_of_decodeCommand {w : CommandWord} {i : Instr} (h : decodeCommand w = .ok i) :
    ∃ row ∈ commandRows, row.mnemonic = i.mnemonic ∧ row.hits w = true := by
  obtain ⟨henc, hwf⟩ := decodeCommand_eq_ok_iff.1 h
  have hshape := rowShape i hwf
  rw [henc] at hshape
  cases hrow : RowShape.row i with
  | none => rw [hrow] at hshape; exact hshape.elim
  | some r => rw [hrow] at hshape; exact ⟨r, hshape⟩

/-- R66: no two rows have one mnemonic. -/
theorem row_eq_of_mnemonic : ∀ r ∈ commandRows, ∀ r' ∈ commandRows, r.mnemonic = r'.mnemonic → r = r' := by decide

/-- R66: the fields of a word that a row hits, the row's mask being full at `op`. -/
theorem fields_of_hits {row : TableRow} {w : CommandWord} (hrow : row ∈ commandRows) (h : row.hits w = true) :
    fieldOp w = fieldOp row.value ∧ fieldA w &&& fieldA row.mask = fieldA row.value ∧
      fieldB w &&& fieldB row.mask = fieldB row.value := by
  have hfull : ∀ r ∈ commandRows, fieldOp r.mask = BitVec.allOnes 8 := by decide
  have hfields := RowShape.hits_iff row.mnemonic (fieldOp w) (fieldA w) (fieldB w) (fieldOp row.value) (fieldOp row.mask)
    (fieldA row.value) (fieldA row.mask) (fieldB row.value) (fieldB row.mask)
  simp only [commandWord_fields] at hfields
  rwa [h, hfull row hrow, BitVec.and_allOnes, eq_self, true_iff] at hfields

/-- R61: a field that is must-be-zero as a whole. -/
theorem eq_zero_of_mask {n : Nat} {x : BitVec n} (h : x &&& BitVec.allOnes n = 0) : x = 0 := BitVec.and_allOnes.symm.trans h

/-- R61: the must-be-zero bits of a channel operand. -/
theorem channelWellFormed_of_mask : ∀ {ch : Byte}, ch &&& 0xFE = 0 → channelWellFormed ch = true := by decide

/-- R61: the must-be-zero bits of a value operand; the value is left. -/
theorem fieldB_of_mask {w : CommandWord} (h : fieldB w &&& 0xFF00 = 0) : fieldB w = valueOperand (fieldV w) := by
  have hand : (fieldBHigh w ++ fieldV w) &&& ((0xFF : Byte) ++ (0x00 : Byte)) = (0x00 : Byte) ++ (0x00 : Byte) :=
    fieldB_halves w ▸ h
  rw [BitVec.and_append] at hand
  exact fieldB_eq_valueOperand (eq_zero_of_mask (status_eq_of_append_eq hand))

/-- R66: a word that a row hits is the word of a well-formed term of that row's operation. -/
theorem exists_encode_of_hits {w : CommandWord} {row : TableRow} (hrow : row ∈ commandRows) (h : row.hits w = true) :
    ∃ i, encode i = .command w ∧ i.wellFormed = true ∧ i.mnemonic = row.mnemonic := by
  obtain ⟨hop, ha, hb⟩ := fields_of_hits hrow h
  simp only [commandRows, List.mem_cons, List.not_mem_nil, or_false] at hrow
  obtain rfl | rfl | rfl | rfl | rfl | rfl | rfl | rfl | rfl | rfl | rfl | rfl := hrow
  · exact ⟨.encd (fieldA w), command_of_fields hop rfl (eq_zero_of_mask hb), rfl, rfl⟩
  · exact ⟨.encc (fieldA w), command_of_fields hop rfl (eq_zero_of_mask hb), rfl, rfl⟩
  · exact ⟨.encp (fieldA w), command_of_fields hop rfl (eq_zero_of_mask hb), rfl, rfl⟩
  · exact ⟨.render (fieldB w), command_of_fields hop (eq_zero_of_mask ha) rfl, rfl, rfl⟩
  · exact ⟨.treg (fieldA w) (fieldB w), command_of_fields hop rfl rfl, channelWellFormed_of_mask ha, rfl⟩
  · exact ⟨.trev (fieldA w), command_of_fields hop rfl (eq_zero_of_mask hb), channelWellFormed_of_mask ha, rfl⟩
  · exact ⟨.trst (fieldA w), command_of_fields hop rfl (eq_zero_of_mask hb), channelWellFormed_of_mask ha, rfl⟩
  · exact ⟨.wr (fieldA w) (fieldV w), command_of_fields hop rfl (fieldB_of_mask hb), rfl, rfl⟩
  · exact ⟨.rd (fieldA w), command_of_fields hop rfl (eq_zero_of_mask hb), rfl, rfl⟩
  · exact ⟨.wrt (fieldA w) (fieldV w), command_of_fields hop rfl (fieldB_of_mask hb), rfl, rfl⟩
  · exact ⟨.rdt (fieldA w), command_of_fields hop rfl (eq_zero_of_mask hb), rfl, rfl⟩
  · exact ⟨.regen, command_of_fields hop (eq_zero_of_mask ha) (eq_zero_of_mask hb), rfl, rfl⟩

/-- Settles O3: a word that a row hits is the word of a term of that row, and one that decodes lies in a row with its operation's mnemonic,
which no other row has. -/
theorem wordMatchesItsTableRow : Obligations.WordMatchesItsTableRow := by
  intro w row hrow
  rw [← beq_iff_eq]
  constructor
  · intro h
    obtain ⟨i, henc, hwf, hname⟩ := exists_encode_of_hits hrow h
    exact ⟨i, decodeCommand_eq_ok_iff.2 ⟨henc, hwf⟩, hname⟩
  · rintro ⟨i, hdec, hname⟩
    obtain ⟨r, hr, hown, hhits⟩ := row_of_decodeCommand hdec
    rw [row_eq_of_mnemonic row hrow r hr (hname.symm.trans hown.symm)]
    exact hhits

/-- Settles O5: a code that decodes is the code of a channel, hence below 2; a decoded command word is a command, which no callback is. -/
theorem eventCodesNameTheCallbacks : Obligations.EventCodesNameTheCallbacks := by
  refine ⟨rfl, rfl, fun ev hev => ?_, fun w i hdec => ?_⟩
  · cases hdec : decodeEvent ev with
    | none => rfl
    | some c =>
      rw [eq_eventCode_of_decodeEvent hdec] at hev
      exact absurd hev (by cases c <;> decide)
  · have hcommand := decodeCommand_isCommand hdec
    constructor <;> rintro rfl <;> cases hcommand

/-! ## A word given to the port -/

/-- R50, R185: where the host may step its word is given to the port. -/
theorem step_command {s : State} {w : CommandWord} {rest : List Input} (hm : s.hostMayStep = true)
    (hi : s.inputs = .command w :: rest) : step s = giveCommand exec w { s with inputs := rest } := by
  rw [step_eq, transition_command hi hm]

/-- Settles O8: the port runs the command its word decodes to. -/
theorem stepRunsTheHostsCommand : Obligations.StepRunsTheHostsCommand := by
  intro s w rest i hm hi hdec
  rw [step_command hm hi, giveCommand, hdec]

/-- R67, R191: the port refuses a word the decoder rejects, with the decoder's code. -/
theorem step_of_rejected {s : State} {w : CommandWord} {rest : List Input} {r : RefuseCode} (hm : s.hostMayStep = true)
    (hi : s.inputs = .command w :: rest) (hdec : decodeCommand w = .error r) :
    step s = .next (refusedWith (refuseCode r) { s with inputs := rest }) := by
  rw [step_command hm hi, giveCommand, hdec]
  rfl

/-- R60, R66: the top byte of a word is its field `op`. -/
theorem mem_assignedOpcodes_iff {w : CommandWord} :
    fieldOp w ∈ assignedOpcodes ↔
      (w >>> 24).toNat ∈ [0x01, 0x02, 0x03, 0x10, 0x20, 0x21, 0x22, 0x30, 0x31, 0x32, 0x33, 0x40] := by
  rw [BitVec.toNat_ushiftRight, Nat.shiftRight_eq_div_pow, ← fieldOp_toNat]
  exact (List.mem_map_of_injective BitVec.toNat_injective).symm

/-- Settles O6: of the decoder's answers only ILLEGAL_OPCODE is of an unassigned `op`. -/
theorem unassignedOpcodeIsRefused : Obligations.UnassignedOpcodeIsRefused := by
  intro s w rest hop hm hi
  have hread := reading_decodeCommand w
  generalize hdec : decodeCommand w = answer at hread
  cases hread with
  | illegalOpcode => exact step_of_rejected hm hi hdec
  | badOperand hmem | instr hmem => exact absurd (mem_assignedOpcodes_iff.1 hmem) hop

/-- Settles O7: of the decoder's answers a term is of a word that lies in a row, and ILLEGAL_OPCODE of an unassigned `op`. -/
theorem mustBeZeroBitIsRefused : Obligations.MustBeZeroBitIsRefused := by
  intro s w rest hop hrows hm hi
  have hread := reading_decodeCommand w
  generalize hdec : decodeCommand w = answer at hread
  cases hread with
  | illegalOpcode hnot => exact absurd (mem_assignedOpcodes_iff.2 hop) hnot
  | badOperand => exact step_of_rejected hm hi hdec
  | instr =>
    obtain ⟨r, hr, -, hhits⟩ := row_of_decodeCommand hdec
    exact absurd (beq_iff_eq.1 hhits) (hrows r hr)

/-! ## A command executed or refused -/

/-- R192: the codes of a refusal are 1 to 4. -/
theorem refuseCode_range (r : RefuseCode) : 1 ≤ (refuseCode r).toNat ∧ (refuseCode r).toNat ≤ 4 := by
  cases r <;> decide

/-- Settles O23: the answer of an executed command is the one response it adds; a refusal has one of four codes. -/
theorem commandAnswersOrIsRefused : Obligations.CommandAnswersOrIsRefused := by
  intro i s t hi h
  obtain ⟨r, rfl⟩ | ⟨n, rfl, hforce, rfl⟩ | ⟨d, u, hexec, rfl⟩ := exec_command_cases hi h
  · obtain ⟨hlow, hhigh⟩ := refuseCode_range r
    exact .inr (.inl ⟨refuseCode r, hlow, hhigh, rfl⟩)
  · exact .inr (.inr ⟨n, rfl, hforce, rfl⟩)
  · refine .inl ⟨d, ?_⟩
    rw [respond_responses, hexec.frame]
    rfl

end Sys2Proof.Proofs
end

section
/-! PROOFS. The family of 40_segment_encoder.md: the glyph functions of the block give the entries of the configuration's tables or nothing,
and a word of a command without operand `b` is refused for any `b` but zero. -/

open Sys2Proof Sys2Proof.Machine Sys2Proof.Claims Sys2Proof.Laws

namespace Sys2Proof.Proofs

/-! ## Words of commands without operand `b` -/

/-- R61, R66: the codes of `op` whose whole operand `b` must be zero. -/
def bZeroOpcodes : List Byte := [0x01, 0x02, 0x03, 0x21, 0x22, 0x31, 0x33, 0x40]

/-- R61: a word of such an `op` with `b` not zero is refused, whatever its operand `a`. -/
theorem decodeCommand_of_b_ne_zero {op a : Byte} {b : Half} (hop : op ∈ bZeroOpcodes) (hb : b ≠ 0) :
    decodeCommand ((op ++ a) ++ b) = .error .badOperand := by
  change decodeCommand (commandWord op a b) = _
  replace hb : b ≠ 0#16 := hb -- the spelling of zero that `simp` reaches
  simp only [bZeroOpcodes, List.mem_cons, List.not_mem_nil, or_false] at hop
  rcases hop with rfl | rfl | rfl | rfl | rfl | rfl | rfl | rfl <;> simp [decodeCommand, whenZero, hb]

/-! ## Glyphs and their commands -/

/-- R81: the pattern of a digit is its entry of the digit table. -/
theorem encDigit_of_le {cfg : Config} {d : Byte} (h : d.toNat ≤ 9) : encDigit cfg d = some (digitOf cfg d.toNat) := by
  have hlt : d.toNat < 10 := Nat.lt_succ_of_le h
  rw [encDigit_eq, digitOf, dif_pos hlt, dif_pos hlt]

/-- R89: no selector above 1 names a glyph. -/
theorem encPunctuation_of_gt {cfg : Config} {g : Byte} (h : 1 < g.toNat) : encPunctuation cfg g = none := by
  have h0 : g ≠ 0 := by rintro rfl; exact absurd h (by decide)
  have h1 : g ≠ 1 := by rintro rfl; exact absurd h (by decide)
  rw [encPunctuation, if_neg h0, if_neg h1]

/-- R87: ENCD of a value that has a pattern. -/
theorem exec_encd_of_some {s : State} {d p : Byte} (h : encDigit chip d = some p) :
    exec (.encd d) s = .next (answered p { s with encout := p }) := by
  rw [exec, execEncd, encdWith, h]
  rfl

/-- R87, R191: ENCD of a value without a pattern. -/
theorem exec_encd_of_none {s : State} {d : Byte} (h : encDigit chip d = none) :
    exec (.encd d) s = .next (refusedWith 0x02 s) := by
  rw [exec, execEncd, encdWith, h]
  rfl

/-- R89: ENCP of a selector that names a glyph. -/
theorem exec_encp_of_some {s : State} {g p : Byte} (h : encPunctuation chip g = some p) :
    exec (.encp g) s = .next (answered p { s with encout := p }) := by
  rw [exec, execEncp, encpWith, h]
  rfl

/-- R89, R191: ENCP of a selector that names none. -/
theorem exec_encp_of_none {s : State} {g : Byte} (h : encPunctuation chip g = none) :
    exec (.encp g) s = .next (refusedWith 0x02 s) := by
  rw [exec, execEncp, encpWith, h]
  rfl

/-- Settles O26: a value up to 9 has the pattern of the digit table, above 9 there is none. -/
theorem encdGivesTheNumeral : Obligations.EncdGivesTheNumeral := fun _ _ =>
  ⟨fun h => exec_encd_of_some (encDigit_of_le h), fun h => exec_encd_of_none (encDigit_none.2 h),
    fun _ => decodeCommand_of_b_ne_zero (by decide)⟩

/-- Settles O27: ENCC has no refusing branch, so its meaning is the answer itself. -/
theorem enccGivesTheCharacter : Obligations.EnccGivesTheCharacter := fun _ _ =>
  ⟨rfl, fun _ => decodeCommand_of_b_ne_zero (by decide)⟩

/-- Settles O28: the selectors 0 and 1 name the colon and the dot, no other names a glyph. -/
theorem encpGivesTheGlyph : Obligations.EncpGivesTheGlyph := by
  refine fun s g => ⟨?_, ?_, fun h => exec_encp_of_none (encPunctuation_of_gt h), fun _ => decodeCommand_of_b_ne_zero (by decide)⟩
  · rintro rfl
    exact exec_encp_of_some rfl
  · rintro rfl
    exact exec_encp_of_some rfl

end Sys2Proof.Proofs
end

section
/-! PROOFS. The family of 41_display_multiplexer.md: the pattern of a slot, the micro-steps at the sequencer's turn, and then whole
passes. Every pass completes since each micro-step makes `stepsLeft` fall; a RENDER with nothing changing meanwhile goes through states
`seqAt s tr rep p ph`, which differ from the admitted state `s` in the trace and in the sequencer's place alone. -/

open Sys2Proof Sys2Proof.Machine Sys2Proof.Claims

namespace Sys2Proof.Proofs

/-! ## Slot patterns -/

/-- R36: the record displayed is the one shown. -/
theorem displayed_eq_shown (s : State) : s.displayed = shown s := by
  unfold State.displayed shown
  cases s.pmode <;> rfl

/-- R81: a digit value up to 9 has its pattern of the digit table, under any overlay. -/
theorem digitWith_of_le {cfg : Config} {d o : Byte} (h : d.toNat ≤ 9) :
    digitWith cfg d o = .ok (digitOf cfg d.toNat ||| o) := by
  rw [digitWith, encDigit_of_le h]

/-- R107, R108: the tens of a value up to 99. -/
theorem digitWith_div_ten {cfg : Config} {v o : Byte} (h : v.toNat ≤ 99) :
    digitWith cfg (v / 10) o = .ok (digitOf cfg (v.toNat / 10) ||| o) := by
  rw [digitWith_of_le (by rw [toNat_div_ten]; omega), toNat_div_ten]

/-- R107, R109: the ones of a value. -/
theorem digitWith_mod_ten {cfg : Config} {v o : Byte} :
    digitWith cfg (v % 10) o = .ok (digitOf cfg (v.toNat % 10) ||| o) := by
  rw [digitWith_of_le (by rw [toNat_mod_ten]; omega), toNat_mod_ten]

/-- R109: the armed dot by the level of the switch line. -/
theorem armedDot_eq (cfg : Config) (s : State) : armedDot cfg s = if s.swN = .low then cfg.dot else 0x00 := by
  simp [armedDot, State.engaged]

/-- R110: the colon slot by `BLINK`, `PMODE` and `COLON_NON_SHOWTIME`. -/
theorem colonSlot_eq (cfg : Config) (s : State) : colonSlot cfg s = numericSlot cfg s .p5 := by
  unfold colonSlot numericSlot
  cases s.pmode <;> cases s.blink <;> cases cfg.colonNonShowtime <;> rfl

/-- Settles O43: each digit position shows the tens or the ones of a legal hour or minute, under its overlay. -/
theorem numericSlotsShowTheTime : Obligations.NumericSlotsShowTheTime := by
  intro cfg s p hmode hlegal
  have hpattern : slotPattern cfg s p = numericPattern cfg s p := by rw [slotPattern, hmode]
  have hrecord : (shown s).legal = true := (legal_iff _).2 hlegal
  obtain ⟨-, hhour, hminute, -⟩ := hlegal
  have hhours := digitWith_div_ten (cfg := cfg) (o := 0x00) (show (shown s).hours.toNat ≤ 99 by omega)
  rw [hpattern, numericPattern.eq_def]
  cases p <;> simp only [displayed_eq_shown, hrecord, if_true, numericSlot]
  case p1 =>
    split
    · rfl
    · rw [hhours]; exact congrArg _ BitVec.or_zero
  case p2 => rw [digitWith_mod_ten]; exact congrArg _ BitVec.or_zero
  case p3 => exact digitWith_div_ten (by omega)
  case p4 => rw [digitWith_mod_ten, armedDot_eq]
  case p5 => rw [colonSlot_eq, numericSlot]

/-- R112, R113: a digit position shows the character at its index, or nothing from `TLEN` on; an index below a legal `TLEN` lies inside
the text. -/
theorem textPattern_of_digit {cfg : Config} {s : State} {p : Position} (hlen : s.tlen.toNat ≤ textMax) (hp : p ≠ .p5) :
    textPattern cfg s p = .ok (if s.cursor.toNat + p.offset < s.tlen.toNat then
      cfg.char (Memory.read s.text (s.cursor.toNat + p.offset)) else 0x00) := by
  simp only [textPattern, if_neg hp]
  by_cases hj : s.cursor.toNat + p.offset < s.tlen.toNat
  · rw [if_pos hj, if_pos hj, if_pos (hj.trans_le hlen), encChar]
  · rw [if_neg hj, if_neg hj]

/-- Settles O44: `textSlot` writes out the offsets of the four digit positions. -/
theorem textSlotsShowTheWindow : Obligations.TextSlotsShowTheWindow := by
  intro cfg s p hmode hlen
  have hpattern : slotPattern cfg s p = textPattern cfg s p := by rw [slotPattern, hmode]
  rw [hpattern]
  cases p with
  | p5 => rfl
  | _ => exact textPattern_of_digit hlen (by decide)

/-- R106 to R113: the pattern of a slot in a state that meets the invariant, whichever mode is in force. -/
theorem slotPattern_eq_slot {s : State} (hinv : s.Inv) (cfg : Config) (p : Position) :
    slotPattern cfg s p = .ok (slot cfg s p) := by
  cases hmode : s.dmode with
  | numeric =>
    have hlegal : (shown s).legal = true := by
      rw [← displayed_eq_shown, State.displayed]
      cases s.pmode
      · exact hinv.clock
      · exact hinv.clock
      · exact hinv.alarm
      · exact hinv.alarm
    rw [slot, if_pos hmode, numericSlotsShowTheTime cfg s p hmode ((legal_iff _).1 hlegal)]
  | scrollingText => rw [slot, if_neg (by simp [hmode]), textSlotsShowTheWindow cfg s p hmode hinv.tlen]

/-! ## The two operations -/

/-- R100: a word of RENDER with `a` not zero is refused. -/
theorem decodeCommand_render_of_a_ne_zero {a : Byte} (n : Half) (ha : a ≠ 0) :
    decodeCommand (((0x10 : Byte) ++ a) ++ n) = .error .badOperand := by
  change decodeCommand (commandWord 0x10 a n) = _
  replace ha : a ≠ 0#8 := ha -- the spelling of zero that `simp` reaches
  simp [decodeCommand, whenZero, ha]

/-- Settles O41: admission looks at `T_EN[1]` alone; that the block is free then is `hostMayStep_iff`. -/
theorem renderIsAdmittedOrRefused : Obligations.RenderIsAdmittedOrRefused := by
  intro s n
  refine ⟨fun hen => if_pos hen, fun hen => if_neg (by simp [hen]), fun hm => ?_, fun u hact => ?_,
    fun a => decodeCommand_render_of_a_ne_zero n⟩
  · obtain ⟨hnone, hidle, -, -⟩ := hostMayStep_iff.1 hm
    exact ⟨hnone, hidle⟩
  · refine Bool.eq_false_iff.2 fun hm => ?_
    obtain ⟨-, hidle, -, -⟩ := hostMayStep_iff.1 hm
    cases hact.symm.trans hidle

/-- Settles O42: REFRESH has no refusing branch, so its meaning is the state entered. -/
theorem refreshEntersTheHandler : Obligations.RefreshEntersTheHandler := fun _ => rfl

/-! ## The micro-steps at the sequencer's turn -/

/-- R103, R199: at the sequencer's turn the step is its micro-step. -/
theorem step_of_turn {s : State} (h : SequencerTurn s) : step s = microStep chip s := by
  obtain ⟨hact, hinputs, hserve⟩ := h
  rw [step_eq, transition_nil hinputs]
  exact ownStep_sequencer hact (hserve.imp_right fun ⟨h0, h1⟩ => ⟨by simp [State.due, h0], by simp [State.due, h1]⟩)

/-- R102, R199: under the invariant a pass with nothing coming from outside is at the sequencer's turn. -/
theorem sequencerTurn_of_inv {s : State} (hinv : s.Inv) (hact : s.seqActive = true) (hinputs : s.inputs = []) :
    SequencerTurn s := by
  refine ⟨hact, hinputs, ?_⟩
  cases hctx : s.seqCtx with
  | refresh => exact .inl (hinv.handler.2 ⟨hact, hctx⟩)
  | foreground =>
    obtain ⟨hen, hpend⟩ := hinv.foreground hact hctx
    exact .inr ⟨hpend, pend_false hinv.channel1 (by simp [hen])⟩

section
variable {s : State} (hturn : SequencerTurn s)
include hturn

/-- R103 DRIVE: no cycle is left. -/
theorem step_drive_spent (hphase : s.seqPhase = .drive) (hrep : s.seqRep = s.seqN) :
    step s = .next { s with seqPhase := .scroll } := by
  rw [step_of_turn hturn, microStep, hphase]
  exact if_pos hrep

/-- R103 DRIVE, R104: a cycle is left and the slot has a pattern. -/
theorem step_drive_slot {pat : Byte} (hphase : s.seqPhase = .drive) (hrep : s.seqRep ≠ s.seqN)
    (hpat : slotPattern chip s s.seqPos = .ok pat) :
    step s = .next { drive s.seqPos pat (dwell chip s) s with seqPhase := .blank } := by
  rw [step_of_turn hturn, microStep, hphase]
  simp only [driveStep, if_neg hrep, hpat]

/-- R103 BLANK. -/
theorem step_blank (hphase : s.seqPhase = .blank) : step s = .next (blankStep chip s) := by
  rw [step_of_turn hturn, microStep, hphase]

/-- R103 SIRENCHK, R118: the siren is due. -/
theorem step_sirenChk_due (hphase : s.seqPhase = .sirenChk) (hdue : s.sirenDue = true) :
    step s = .next { siren s with seqPhase := .sirenClr } := by
  rw [step_of_turn hturn, microStep, hphase]
  simp only [sirenChkStep, if_pos hdue]

/-- R103 SIRENCHK, R118: the siren is not due. -/
theorem step_sirenChk_quiet (hphase : s.seqPhase = .sirenChk) (hquiet : s.sirenDue = false) :
    step s = .next (nextCycle s) := by
  rw [step_of_turn hturn, microStep, hphase]
  simp only [sirenChkStep, hquiet, Bool.false_eq_true, if_false]

/-- R103 SIRENCLR. -/
theorem step_sirenClr (hphase : s.seqPhase = .sirenClr) : step s = .next (nextCycle { s with buzz := false }) := by
  rw [step_of_turn hturn, microStep, hphase]
  rfl

/-- R103 SCROLL. -/
theorem step_scroll (hphase : s.seqPhase = .scroll) : step s = .next (scrollStep s) := by
  rw [step_of_turn hturn, microStep, hphase]

end

/-- R64: the line of a position. -/
theorem select_eq_line (p : Position) : p.select = line p := by cases p <;> rfl

/-- R103 BLANK: after positions 1 to 4 comes the next one. -/
theorem blankStep_of_next {s : State} {q : Position} (cfg : Config) (h : s.seqPos.next? = some q) :
    blankStep cfg s = { blankAll cfg s with seqPos := q, seqPhase := .drive } := by
  rw [blankStep, h]

/-- R103 BLANK: after position 5 comes the siren check. -/
theorem blankStep_of_last {s : State} (cfg : Config) (h : s.seqPos = .p5) :
    blankStep cfg s = { blankAll cfg s with seqPhase := .sirenChk } := by
  rw [blankStep, h, Position.next?]

/-- R118: the siren condition in its three inputs. -/
theorem sirenDue_iff {s : State} : s.sirenDue = true ↔ s.swN = .low ∧ s.ringing = true ∧ s.buzz = true := by
  simp [State.sirenDue, State.engaged, and_assoc]

/-- R118: one input that is off keeps the siren silent. -/
theorem sirenDue_eq_false {s : State} (h : s.swN = .high ∨ s.ringing = false ∨ s.buzz = false) : s.sirenDue = false := by
  refine Bool.eq_false_iff.2 fun hdue => ?_
  obtain ⟨hline, hringing, hbuzz⟩ := sirenDue_iff.1 hdue
  simp [hline, hringing, hbuzz] at h

/-- R116, R117: `ScrollAdvance()` in numbers, `ROT` being at most 9. -/
theorem scrollAdvance_eq_scrolled {s : State} (hmode : s.dmode = .scrollingText) (hrot : s.rot.toNat ≤ 9) :
    scrollAdvance s = scrolled s := by
  have hlast : s.rot.toNat + 1 ≥ scrollDiv ↔ s.rot.toNat = 9 := by simp only [scrollDiv]; omega
  simp only [scrollAdvance, scrolled, if_pos hmode, hlast]

/-- R116, R121: the last micro-step completes the pass of the scrolled state. -/
theorem scrollStep_eq_complete_scrolled {s : State} (hrot : s.rot.toNat ≤ 9) : scrollStep s = complete (scrolled s) := by
  unfold scrollStep
  split
  next hmode => rw [scrolled, if_neg (by simp [hmode])]
  next hmode => rw [scrollAdvance_eq_scrolled hmode hrot]

/-- R116, R117: the scroll writes `ROT` and `CURSOR` alone. -/
theorem scrolled_frame (s : State) : scrolled s = { s with rot := (scrolled s).rot, cursor := (scrolled s).cursor } := by
  unfold scrolled
  split_ifs <;> rfl

/-- Settles O45: the two exits of phase DRIVE; the invariant gives the slot its pattern. -/
theorem driveStepDrivesTheSlot : Obligations.DriveStepDrivesTheSlot := by
  intro s hinv hturn hphase
  refine ⟨step_drive_spent hturn hphase, fun hrep => ?_⟩
  rw [step_drive_slot hturn hphase hrep (slotPattern_eq_slot hinv chip s.seqPos), drive, select_eq_line]
  rfl

/-- Settles O46: `blankStep` writes the blank for every position and chooses the next place by the position. -/
theorem blankStepBlanksTheOutputs : Obligations.BlankStepBlanksTheOutputs := by
  intro s hturn hphase
  have hnext : ∀ p q, p.next? = some q → s.seqPos = p →
      (blankStep chip s).seqPos = q ∧ (blankStep chip s).seqPhase = .drive := fun p q hq hp => by
    rw [blankStep_of_next chip (hp ▸ hq)]
    exact ⟨rfl, rfl⟩
  refine ⟨(blankStep chip s).seqPos, (blankStep chip s).seqPhase, ?_, hnext .p1 .p2 rfl, hnext .p2 .p3 rfl,
    hnext .p3 .p4 rfl, hnext .p4 .p5 rfl, fun hp => ?_⟩
  · exact (step_blank hturn hphase).trans (congrArg _ (blankStep_frame chip s))
  · rw [blankStep_of_last chip hp]
    exact ⟨hp, rfl⟩

/-- Settles O47: the siren check takes its exit by `sirenDue`. -/
theorem sirenIsCalledAndThePulseCleared : Obligations.SirenIsCalledAndThePulseCleared := fun _ hturn =>
  ⟨fun hphase hline hringing hbuzz => step_sirenChk_due hturn hphase (sirenDue_iff.2 ⟨hline, hringing, hbuzz⟩),
    fun hphase hoff => step_sirenChk_quiet hturn hphase (sirenDue_eq_false hoff), step_sirenClr hturn⟩

/-- Settles O48: the scrolled state is completed in the context of the pass. -/
theorem scrollStepEndsThePass : Obligations.ScrollStepEndsThePass := by
  intro s hinv hturn hphase
  have hctx : (scrolled s).seqCtx = s.seqCtx := by rw [scrolled_frame]
  rw [step_scroll hturn hphase, scrollStep_eq_complete_scrolled hinv.rot]
  exact ⟨fun hfore => congrArg _ (complete_foreground (hctx.trans hfore)),
    fun hrefresh => congrArg _ (complete_refresh (hctx.trans hrefresh))⟩

/-- Settles O21: the invariant after the step says it, with the line of the position for its select. -/
theorem outputsBlankOutsideTheDwell : Obligations.OutputsBlankOutsideTheDwell := by
  intro s t hinv hstep
  have hinv' : t.Inv := stepKeepsTheInvariant.1 s t hinv hstep
  have hdwell : t.dwelling = true ↔ t.seqActive = true ∧ t.seqPhase = .blank := by simp [State.dwelling]
  exact ⟨fun hout => hinv'.blanked (Bool.eq_false_iff.2 (mt hdwell.1 hout)),
    fun hin => (hinv'.selected (hdwell.2 hin)).trans (select_eq_line _)⟩

/-! ## Every pass completes -/

/-- R103: the number of micro-steps a cycle has behind it at a phase and position; SCROLL comes one micro-step after DRIVE. -/
def cycleProgress : Phase → Position → Nat
  | .drive, p => 2 * p.offset
  | .blank, p => 2 * p.offset + 1
  | .sirenChk, _ => 10
  | .sirenClr, _ => 11
  | .scroll, _ => 1

/-- The most micro-steps a pass has ahead of it: 12 for a cycle and 2 to leave the loop. -/
def stepsLeft (s : State) : Nat := 12 * (s.seqN.toNat - s.seqRep.toNat) + 2 - cycleProgress s.seqPhase s.seqPos

/-- R30: `SEQ_REP` counts up to `SEQ_N` without overflow. -/
theorem toNat_seqRep_succ {rep n : Half} (h : rep.toNat < n.toNat) : (rep + 1).toNat = rep.toNat + 1 := by
  have := n.isLt
  rw [BitVec.toNat_add]
  simp only [BitVec.ofNat_eq_ofNat, BitVec.toNat_ofNat]
  omega

/-- R103: a new cycle has the 12 micro-steps of the last one less ahead of it. -/
theorem stepsLeft_nextCycle {s : State} (h : s.seqRep.toNat < s.seqN.toNat) :
    stepsLeft (nextCycle s) + 12 = 12 * (s.seqN.toNat - s.seqRep.toNat) + 2 := by
  simp only [stepsLeft, nextCycle, toNat_seqRep_succ h, cycleProgress, Position.offset]
  omega

/-- R103: a position is the last one or has the next one after it. -/
theorem next_of_position (p : Position) : p = .p5 ∨ ∃ q, p.next? = some q ∧ q.offset = p.offset + 1 ∧ q.offset ≤ 4 := by
  cases p
  case p5 => exact .inl rfl
  all_goals exact .inr ⟨_, rfl, rfl, by decide⟩

/-- The pass in progress in `s` is still in progress in `t`, with fewer micro-steps ahead. -/
structure Advanced (s t : State) : Prop where
  active : t.seqActive = true
  ctx : t.seqCtx = s.seqCtx
  inputs : t.inputs = s.inputs
  responses : t.responses = s.responses
  fewer : stepsLeft t < stepsLeft s

/-- R121: `t` is a state after the completion of the pass in progress in `s`. -/
structure Completed (s t : State) : Prop where
  inactive : t.seqActive = false
  returned : t.hctx = .none
  answered : s.seqCtx = .foreground → t.responses = s.responses ++ [0x0000]
  silent : s.seqCtx = .refresh → t.responses = s.responses

/-- What a pass completes with does not change while it advances. -/
theorem Advanced.completed {s u t : State} (h : Advanced s u) (h' : Completed u t) : Completed s t where
  inactive := h'.inactive
  returned := h'.returned
  answered hctx := h.responses ▸ h'.answered (h.ctx.trans hctx)
  silent hctx := h.responses ▸ h'.silent (h.ctx.trans hctx)

/-- R121: the completion of a pass, whatever the scroll has written before it. -/
theorem completed_scrollStep {s : State} (hinv : s.Inv) : Completed s (scrollStep s) := by
  obtain ⟨rot, cursor, hscroll⟩ := scrollStep_eq_complete s
  cases hctx : s.seqCtx with
  | foreground =>
    have hnone := hctx_none_of_foreground hinv hctx
    rw [hscroll.trans (complete_foreground hctx)]
    exact ⟨rfl, hnone, fun _ => rfl, (nomatch hctx.symm.trans ·)⟩
  | refresh =>
    rw [hscroll.trans (complete_refresh hctx)]
    exact ⟨rfl, rfl, (nomatch hctx.symm.trans ·), fun _ => rfl⟩

/-- R103: the number of micro-steps ahead falls with every micro-step but the last, which completes the pass. -/
theorem microStep_advances_or_completes {cfg : Config} {s t : State} (hinv : s.Inv) (hact : s.seqActive = true)
    (h : microStep cfg s = .next t) : Advanced s t ∨ (Completed s t ∧ stepsLeft s = 1) := by
  have hplaced := hinv.placed hact
  unfold State.SeqPlaced at hplaced
  obtain ⟨hp, hrep, rfl⟩ | ⟨hp, hrep, pat, -, rfl⟩ | ⟨hp, rfl⟩ | ⟨hp, rfl⟩ | ⟨hp, rfl⟩ | ⟨hp, rfl⟩ := microStep_cases h <;>
    simp only [hp] at hplaced
  · -- DRIVE with no cycle left
    refine .inl ⟨hact, rfl, rfl, rfl, ?_⟩
    simp [stepsLeft, hp, hrep, hplaced.2 hrep, cycleProgress, Position.offset]
  · -- DRIVE of a slot
    have hne : s.seqRep.toNat ≠ s.seqN.toNat := fun he => hrep (BitVec.eq_of_toNat_eq he)
    have hoff : s.seqPos.offset ≤ 4 := by cases s.seqPos <;> decide
    refine .inl ⟨hact, rfl, rfl, rfl, ?_⟩
    simp only [stepsLeft, hp, cycleProgress, drive]
    omega
  · -- BLANK
    obtain hlast | ⟨q, hq, hoff, hle⟩ := next_of_position s.seqPos
    · rw [blankStep_of_last cfg hlast]
      refine .inl ⟨hact, rfl, rfl, rfl, ?_⟩
      simp only [stepsLeft, hp, hlast, cycleProgress, blankAll, Position.offset]
      omega
    · rw [blankStep_of_next cfg hq]
      refine .inl ⟨hact, rfl, rfl, rfl, ?_⟩
      simp only [stepsLeft, hp, cycleProgress, blankAll]
      omega
  · -- SIRENCHK
    have hnext := stepsLeft_nextCycle hplaced.1
    unfold sirenChkStep
    split
    all_goals
      refine .inl ⟨hact, rfl, rfl, rfl, ?_⟩
      simp only [stepsLeft, hp, cycleProgress, siren] at hnext ⊢
      omega
  · -- SIRENCLR
    have hnext : stepsLeft (sirenClrStep s) + 12 = 12 * (s.seqN.toNat - s.seqRep.toNat) + 2 :=
      stepsLeft_nextCycle (s := { s with buzz := false }) hplaced.1
    have hleft : stepsLeft s = 12 * (s.seqN.toNat - s.seqRep.toNat) + 2 - 11 := by rw [stepsLeft, hp, cycleProgress]
    exact .inl ⟨hact, rfl, rfl, rfl, by omega⟩
  · -- SCROLL
    refine .inr ⟨completed_scrollStep hinv, ?_⟩
    simp [stepsLeft, hp, hplaced.1, cycleProgress]

/-- A run that begins with a step. -/
theorem run_succ {k : Nat} {s t : State} (h : step s = .next t) :
    Host.Core.run core (k + 1) s = Host.Core.run core k t := by
  simp only [Host.Core.run, show core.step s = .next t from h]

/-- R121: with nothing coming from outside a pass completes within the micro-steps it has ahead, by induction on their number. -/
theorem pass_completes {s : State} (hinv : s.Inv) (hact : s.seqActive = true) (hinputs : s.inputs = []) :
    ∃ k t, k ≤ stepsLeft s ∧ Host.Core.run core k s = .next t ∧ Completed s t := by
  induction hm : stepsLeft s using Nat.strong_induction_on generalizing s with
  | _ m ih =>
    subst hm
    obtain ⟨u, hrun⟩ := microStep_next ⟨_, slotPattern_eq_slot hinv chip s.seqPos⟩
    have hstep : step s = .next u := (step_of_turn (sequencerTurn_of_inv hinv hact hinputs)).trans hrun
    obtain hadv | ⟨hcompleted, hone⟩ := microStep_advances_or_completes hinv hact hrun
    · obtain ⟨k, t, hk, ht, hcompleted⟩ :=
        ih _ hadv.fewer (stepKeepsTheInvariant.1 s u hinv hstep) hadv.active (hadv.inputs.trans hinputs) rfl
      exact ⟨k + 1, t, hk.trans_lt hadv.fewer, (run_succ hstep).trans ht, hadv.completed hcompleted⟩
    · exact ⟨1, u, hone.ge, run_succ hstep, hcompleted⟩

/-- Settles O49: the micro-steps ahead are at most 12 for each cycle left and 2 more. -/
theorem everyPassCompletes : Obligations.EveryPassCompletes := by
  intro s hinv hact hinputs
  obtain ⟨k, t, hk, hrun, ⟨hidle, hnone, hanswered, hsilent⟩⟩ := pass_completes hinv hact hinputs
  exact ⟨k, t, hk.trans (Nat.sub_le _ _), hrun, hidle, hnone, hanswered, hsilent⟩

/-! ## RENDER with nothing changing meanwhile -/

/-- `t` is reached from `s` by some steps of the machine. -/
abbrev Runs : State → State → Prop := Relation.ReflTransGen fun s t => step s = .next t

/-- A run has a number of steps. -/
theorem exists_run_of_runs {s t : State} (h : Runs s t) : ∃ k, Host.Core.run core k s = .next t := by
  induction h using Relation.ReflTransGen.head_induction_on with
  | refl => exact ⟨0, rfl⟩
  | head hstep _ ih =>
    obtain ⟨k, hk⟩ := ih
    exact ⟨k + 1, (run_succ hstep).trans hk⟩

/-- R103, R104: with a cycle left DRIVE is followed by BLANK. -/
theorem runs_drive_blank {s : State} {pat : Byte} (hturn : SequencerTurn s) (hphase : s.seqPhase = .drive)
    (hrep : s.seqRep ≠ s.seqN) (hpat : slotPattern chip s s.seqPos = .ok pat) :
    Runs s (blankStep chip { drive s.seqPos pat (dwell chip s) s with seqPhase := .blank }) :=
  .head (step_drive_slot hturn hphase hrep hpat)
    (.single (step_blank (s := { drive s.seqPos pat (dwell chip s) s with seqPhase := .blank }) hturn rfl))

/-- A pass of the state `s` at another place: `tr` added to the trace, `rep` cycles done, at position `p` and phase `ph`. -/
def seqAt (s : State) (tr : List TraceEvent) (rep : Half) (p : Position) (ph : Phase) : State :=
  { s with trace := s.trace ++ tr, seqRep := rep, seqPos := p, seqPhase := ph }

/-- What a pass needs to go on cycle by cycle; it does not change from place to place (R104). -/
structure Steady (s : State) : Prop where
  turn : SequencerTurn s
  slots : ∀ p, slotPattern chip s p = .ok (slot chip s p)
  seg : s.seg = 0x00
  pos : s.pos = 0b00000

/-- R104: the two output events of a slot. -/
def slotEvents (s : State) (p : Position) : List TraceEvent := [.drive p (slot chip s p) (dwellOf chip s), .blank chip.tBlank]

section
variable {s : State} (h : Steady s) (tr : List TraceEvent)
include h

/-- The turn stays the sequencer's. -/
theorem Steady.turn_seqAt (rep : Half) (p : Position) (ph : Phase) : SequencerTurn (seqAt s tr rep p ph) := h.turn

/-- R103, R104: DRIVE and BLANK leave the outputs blank and go on to the place BLANK chooses. -/
theorem Steady.drive_blank {rep : Half} (hrep : rep ≠ s.seqN) {p q : Position} {ph : Phase}
    (hblank : ∀ u : State, u.seqPos = p → blankStep chip u = { blankAll chip u with seqPos := q, seqPhase := ph }) :
    Runs (seqAt s tr rep p .drive) (seqAt s (tr ++ slotEvents s p) rep q ph) := by
  have hslot := runs_drive_blank (h.turn_seqAt tr rep p .drive) rfl hrep (h.slots p)
  rw [hblank _ rfl] at hslot
  convert hslot using 1
  simp only [seqAt, blankAll, drive, slotEvents, h.seg, h.pos, List.append_assoc]
  rfl

/-- R103, R104: one digit cycle up to the siren check. -/
theorem Steady.runs_cycle {rep : Half} (hrep : rep ≠ s.seqN) :
    Runs (seqAt s tr rep .p1 .drive) (seqAt s (tr ++ cycle s) rep .p5 .sirenChk) := by
  have hnext : ∀ (tr : List TraceEvent) (p q : Position), p.next? = some q →
      Runs (seqAt s tr rep p .drive) (seqAt s (tr ++ slotEvents s p) rep q .drive) :=
    fun tr p q hq => h.drive_blank tr hrep fun _ hu => blankStep_of_next chip (hu ▸ hq)
  have hlast : ∀ tr : List TraceEvent,
      Runs (seqAt s tr rep .p5 .drive) (seqAt s (tr ++ slotEvents s .p5) rep .p5 .sirenChk) :=
    fun tr => h.drive_blank tr hrep fun u hu => (blankStep_of_last chip hu).trans (by rw [← hu]; rfl)
  have hslots := ((((hnext tr .p1 .p2 rfl).trans (hnext _ .p2 .p3 rfl)).trans (hnext _ .p3 .p4 rfl)).trans
    (hnext _ .p4 .p5 rfl)).trans (hlast _)
  simp only [List.append_assoc] at hslots
  exact hslots -- `cycle s` unfolds to the events of its five slots

/-- R103, R118: the siren check with no siren due begins the next cycle. -/
theorem Steady.runs_quiet (hquiet : s.sirenDue = false) (rep : Half) :
    Runs (seqAt s tr rep .p5 .sirenChk) (seqAt s tr (rep + 1) .p1 .drive) :=
  .single (step_sirenChk_quiet (h.turn_seqAt tr rep .p5 .sirenChk) rfl hquiet)

/-- R118: the siren check with the siren due calls it and clears the pulse, then begins the next cycle. -/
theorem Steady.runs_siren (hdue : s.sirenDue = true) (rep : Half) :
    Runs (seqAt s tr rep .p5 .sirenChk) (seqAt { s with buzz := false } (tr ++ [.siren]) (rep + 1) .p1 .drive) := by
  have hcall : step (seqAt s tr rep .p5 .sirenChk) = .next (seqAt s (tr ++ [.siren]) rep .p5 .sirenClr) := by
    rw [step_sirenChk_due (h.turn_seqAt tr rep .p5 .sirenChk) rfl hdue, seqAt, seqAt, ← List.append_assoc]
    rfl
  exact .head hcall (.single (step_sirenClr (h.turn_seqAt (tr ++ [.siren]) rep .p5 .sirenClr) rfl))

/-- R104, R122: with no siren due the `m` cycles left are driven one after another. -/
theorem Steady.runs_cycles (hquiet : s.sirenDue = false) {m : Nat} {rep : Half} (hleft : rep.toNat + m = s.seqN.toNat) :
    Runs (seqAt s tr rep .p1 .drive) (seqAt s (tr ++ cycles s m) s.seqN .p1 .drive) := by
  induction m generalizing tr rep with
  | zero =>
    have hrep : rep = s.seqN := BitVec.eq_of_toNat_eq hleft
    rw [hrep, cycles, List.append_nil]
  | succ m ih =>
    have hlt : rep.toNat < s.seqN.toNat := by omega
    have hrep : rep ≠ s.seqN := by rintro rfl; exact lt_irrefl _ hlt
    have hrest := ih (tr ++ cycle s) (rep := rep + 1) (by rw [toNat_seqRep_succ hlt]; omega)
    rw [cycles, ← List.append_assoc]
    exact ((h.runs_cycle tr hrep).trans (h.runs_quiet _ hquiet rep)).trans hrest

/-- R103: with no cycle left the pass ends through SCROLL. -/
theorem Steady.runs_end : Runs (seqAt s tr s.seqN .p1 .drive) (scrollStep (seqAt s tr s.seqN .p1 .scroll)) :=
  .head (step_drive_spent (h.turn_seqAt tr s.seqN .p1 .drive) rfl rfl)
    (.single (step_scroll (h.turn_seqAt tr s.seqN .p1 .scroll) rfl))

end

/-- R104: states that drive equal cycles drive equal runs of cycles. -/
theorem cycles_congr {s t : State} (h : cycle s = cycle t) (n : Nat) : cycles s n = cycles t n := by
  induction n with
  | zero => rfl
  | succ n ih => rw [cycles, cycles, h, ih]

/-- R118, R119 (a): with the siren due the first siren check calls it and clears the pulse, so that the `m` cycles after it are quiet. -/
theorem Steady.runs_once_siren {s : State} (h : Steady s) (hdue : s.sirenDue = true) {m : Nat} (hn : s.seqN.toNat = m + 1) :
    Runs (seqAt s [] 0 .p1 .drive)
      (scrollStep (seqAt { s with buzz := false } (cycle s ++ [.siren] ++ cycles s m) s.seqN .p1 .scroll)) := by
  have hsilent : Steady { s with buzz := false } := ⟨h.turn, h.slots, h.seg, h.pos⟩
  have hlt : (0 : Half).toNat < s.seqN.toNat := hn ▸ Nat.succ_pos m
  have hfirst := (h.runs_cycle [] (rep := 0) (fun h0 => lt_irrefl _ (h0 ▸ hlt))).trans (h.runs_siren _ hdue 0)
  have hleft : (0 + 1 : Half).toNat + m = s.seqN.toNat := by rw [toNat_seqRep_succ hlt, hn]; exact Nat.add_comm 1 m
  have hrest := hsilent.runs_cycles (cycle s ++ [.siren]) (sirenDue_eq_false (.inr (.inr rfl))) hleft
  rw [cycles_congr (s := { s with buzz := false }) (t := s) rfl] at hrest
  exact (hfirst.trans hrest).trans (hsilent.runs_end _)

/-- R123: the time of two traces, one after the other. -/
theorem traceDuration_append (cfg : Config) (es fs : List TraceEvent) :
    traceDuration cfg (es ++ fs) = traceDuration cfg es + traceDuration cfg fs := by
  induction es with
  | nil => exact (Nat.zero_add _).symm
  | cons e es ih => rw [List.cons_append, traceDuration, traceDuration, ih, Nat.add_assoc]

/-- R123: a cycle takes five slots. -/
theorem traceDuration_cycle (s : State) : traceDuration chip (cycle s) = 5 * (dwellOf chip s + chip.tBlank) := by
  simp only [cycle, List.flatMap_cons, List.flatMap_nil, List.cons_append, List.nil_append, traceDuration,
    TraceEvent.duration]
  omega

/-- R123: `n` cycles take `n` times five slots. -/
theorem traceDuration_cycles (s : State) (n : Nat) :
    traceDuration chip (cycles s n) = n * 5 * (dwellOf chip s + chip.tBlank) := by
  induction n with
  | zero => simp [cycles, traceDuration]
  | succ n ih => rw [cycles, traceDuration_append, traceDuration_cycle, ih]; ring

/-- R103, R115: under the invariant a pass outside a dwell, with nothing coming from outside, goes on cycle by cycle. -/
theorem steady_of_inv {s : State} (hinv : s.Inv) (hact : s.seqActive = true) (hinputs : s.inputs = [])
    (hphase : s.seqPhase ≠ .blank) : Steady s := by
  obtain ⟨hseg, hpos⟩ := hinv.blanked (by simp [State.dwelling, hphase])
  exact ⟨sequencerTurn_of_inv hinv hact hinputs, slotPattern_eq_slot hinv chip, hseg, hpos⟩

/-- The state of an admitted RENDER (R102), at its first place. -/
theorem startPass_eq_seqAt (n : Half) (s : State) :
    startPass .foreground n s = seqAt (startPass .foreground n s) [] 0 .p1 .drive := by
  rw [seqAt, List.append_nil]
  rfl

/-- R102: RENDER admitted where the host may step begins a pass that goes on cycle by cycle. -/
theorem steady_startPass {s : State} (n : Half) (hinv : s.Inv) (hm : s.hostMayStep = true) (hinputs : s.inputs = [])
    (hen : s.chan1.en = false) : Steady (startPass .foreground n s) := by
  obtain ⟨hnone, hidle, hdue, -⟩ := hostMayStep_iff.1 hm
  exact steady_of_inv (inv_startPass n hinv hnone hidle hen (pend_false hinv.channel0 hdue)) rfl hinputs (by simp)

/-- R116, R121: the end of a RENDER, in terms of the state it was given in. -/
theorem scrollStep_of_render {s : State} (n : Half) (tr : List TraceEvent) (hrot : s.rot.toNat ≤ 9)
    (hidle : s.seqActive = false) :
    scrollStep (seqAt (startPass .foreground n s) tr n .p1 .scroll) = { scrolled s with
      trace := s.trace ++ tr, responses := s.responses ++ [0x0000]
      seqCtx := .foreground, seqN := n, seqRep := n, seqPos := .p1, seqPhase := .scroll } := by
  have hscrolled : scrolled (seqAt (startPass .foreground n s) tr n .p1 .scroll) = { scrolled s with
      trace := s.trace ++ tr, seqActive := true, seqCtx := .foreground, seqN := n, seqRep := n, seqPos := .p1
      seqPhase := .scroll } := by
    by_cases hmode : s.dmode = .scrollingText <;> by_cases hlast : s.rot.toNat = 9 <;>
      simp [scrolled, seqAt, startPass, hmode, hlast]
  have hstep := scrollStep_eq_complete_scrolled (s := seqAt (startPass .foreground n s) tr n .p1 .scroll) hrot
  rw [hstep, hscrolled, complete_foreground rfl, scrolled_frame s, ← hidle]
  rfl

/-- Settles O50: the admitted pass drives its cycles, leaves the loop and scrolls. -/
theorem renderDrivesItsCycles : Obligations.RenderDrivesItsCycles := by
  intro s n hinv hm hinputs hen hoff
  obtain ⟨-, hidle, -, -⟩ := hostMayStep_iff.1 hm
  have hsteady := steady_startPass n hinv hm hinputs hen
  have hruns := (hsteady.runs_cycles [] (sirenDue_eq_false hoff) (m := n.toNat) (rep := 0) (Nat.zero_add _)).trans
    (hsteady.runs_end _)
  rw [← startPass_eq_seqAt, List.nil_append, cycles_congr (s := startPass .foreground n s) (t := s) rfl] at hruns
  obtain ⟨k, hk⟩ := exists_run_of_runs hruns
  exact ⟨_, k, _, (renderIsAdmittedOrRefused s n).2.1 hen, hk, scrollStep_of_render n _ hinv.rot hidle,
    traceDuration_cycles s n.toNat⟩

/-- Settles O51: the pass is that of `runs_once_siren`; the cycles are those of the state RENDER was given in. -/
theorem sirenSoundsOncePerPulse : Obligations.SirenSoundsOncePerPulse := by
  intro s n hinv hm hinputs hen hline hringing hbuzz hn
  have hpos : 0 < n.toNat := Nat.pos_of_ne_zero fun h0 => hn (BitVec.eq_of_toNat_eq h0)
  have hruns := (steady_startPass n hinv hm hinputs hen).runs_once_siren (sirenDue_iff.2 ⟨hline, hringing, hbuzz⟩)
    (m := n.toNat - 1) (Nat.sub_add_cancel hpos).symm
  rw [← startPass_eq_seqAt] at hruns
  obtain ⟨k, hk⟩ := exists_run_of_runs hruns
  refine ⟨_, k, _, (renderIsAdmittedOrRefused s n).2.1 hen, hk, ?_⟩
  obtain ⟨rot, cursor, hscroll⟩ := scrollStep_eq_complete _
  rw [hscroll, complete_frame, cycles_congr (s := startPass .foreground n s) (t := s) rfl, List.append_assoc s.trace,
    List.append_assoc s.trace]
  exact ⟨rfl, rfl, rfl⟩

end Sys2Proof.Proofs
end

section
/-! PROOFS. The family of 42_time_tick.md: the cascade in numbers, then the second of the day, which a tick advances by one modulo
86,400. A legal time is known by its second of the day, so the laws of a whole day are arithmetic modulo 86,400. -/

open Sys2Proof Sys2Proof.Machine Sys2Proof.Claims

namespace Sys2Proof.Proofs

/-! ## The cascade in numbers -/

/-- R141: how far the carry runs. -/
theorem cascade_cases (t : TimeOfDay) :
    (t.seconds.toNat ≠ 59 ∧ cascade t = { t with seconds := t.seconds + 1 }) ∨
    (t.seconds.toNat = 59 ∧ t.minutes.toNat ≠ 59 ∧ cascade t = { t with minutes := t.minutes + 1, seconds := 0 }) ∨
    (t.seconds.toNat = 59 ∧ t.minutes.toNat = 59 ∧ cascade t = hourCarry { t with minutes := 0, seconds := 0 }) := by
  by_cases hs : t.seconds.toNat = 59
  · have hsecond : cascade t = minuteCarry { t with seconds := 0 } := if_pos (succ_eq_sixty.2 hs)
    by_cases hm : t.minutes.toNat = 59
    · exact .inr (.inr ⟨hs, hm, hsecond.trans (if_pos (succ_eq_sixty.2 hm))⟩)
    · exact .inr (.inl ⟨hs, hm, hsecond.trans (if_neg (mt succ_eq_sixty.1 hm))⟩)
  · exact .inl ⟨hs, if_neg (mt succ_eq_sixty.1 hs)⟩

/-- R142: the hour counted up reaches 13 exactly from 12. -/
theorem succ_eq_thirteen {v : Byte} : v + 1 = 13 ↔ v.toNat = 12 := by
  rw [BitVec.toNat_eq, BitVec.toNat_add]
  simp only [BitVec.ofNat_eq_ofNat, BitVec.toNat_ofNat]
  omega

/-- R142: the hour after 12 is 1. -/
theorem hourCarry_hours {t : TimeOfDay} (hh : t.hours.toNat ≤ 12) :
    (hourCarry t).hours.toNat = if t.hours.toNat = 12 then 1 else t.hours.toNat + 1 := by
  simp only [hourCarry, succ_eq_thirteen]
  split_ifs with h
  · rfl
  · exact toNat_succ (by omega)

/-- R142: the meridiem flips on the step from 11 to 12 alone. -/
theorem hourCarry_meridiem {t : TimeOfDay} (hh : t.hours.toNat ≤ 12) :
    (hourCarry t).meridiem = if t.hours.toNat = 11 then flipMeridiem t.meridiem else t.meridiem := by
  have hreach : (hourCarry t).hours = 12 ↔ t.hours.toNat = 11 := by
    rw [BitVec.toNat_eq, hourCarry_hours hh, show (12 : Byte).toNat = 12 from rfl]
    split_ifs <;> omega
  exact if_congr hreach rfl rfl

theorem flipMeridiem_ne (m : Meridiem) : flipMeridiem m ≠ m := by cases m <;> decide

section
variable {t : TimeOfDay} (h : ClockLegal t)
include h

/-- R14 for the cascade, in numbers. -/
theorem clockLegal_cascade : ClockLegal (cascade t) := (legal_iff _).1 (cascade_legal ((legal_iff t).2 h))

/-- R141: seconds count to 59 and wrap. -/
theorem cascade_seconds :
    (cascade t).seconds.toNat = if t.seconds.toNat = 59 then 0 else t.seconds.toNat + 1 := by
  obtain ⟨-, -, -, hsec⟩ := h
  obtain ⟨hs, e⟩ | ⟨hs, -, e⟩ | ⟨hs, -, e⟩ := cascade_cases t
  · rw [e, if_neg hs]
    exact toNat_succ (by omega)
  · rw [e, if_pos hs]; rfl
  · rw [e, if_pos hs]; rfl

/-- R141: minutes count to 59 and wrap, each time the seconds wrap. -/
theorem cascade_minutes :
    (cascade t).minutes.toNat =
      if t.seconds.toNat = 59 then (if t.minutes.toNat = 59 then 0 else t.minutes.toNat + 1) else t.minutes.toNat := by
  obtain ⟨-, -, hmin, -⟩ := h
  obtain ⟨hs, e⟩ | ⟨hs, hm, e⟩ | ⟨hs, hm, e⟩ := cascade_cases t
  · rw [e, if_neg hs]
  · rw [e, if_pos hs, if_neg hm]
    exact toNat_succ (by omega)
  · rw [e, if_pos hs, if_pos hm]; rfl

/-- R141, R142: hours count to 12 and go on from 1, each time the minutes wrap. -/
theorem cascade_hours :
    (cascade t).hours.toNat =
      if t.seconds.toNat = 59 ∧ t.minutes.toNat = 59 then (if t.hours.toNat = 12 then 1 else t.hours.toNat + 1)
      else t.hours.toNat := by
  obtain ⟨-, hhour, -, -⟩ := h
  obtain ⟨hs, e⟩ | ⟨-, hm, e⟩ | ⟨hs, hm, e⟩ := cascade_cases t
  · rw [e, if_neg (hs ·.1)]
  · rw [e, if_neg (hm ·.2)]
  · rw [e, if_pos ⟨hs, hm⟩]
    exact hourCarry_hours hhour

/-- R142: the meridiem flips where the hour goes from 11 to 12. -/
theorem cascade_meridiem :
    (cascade t).meridiem =
      if t.seconds.toNat = 59 ∧ t.minutes.toNat = 59 ∧ t.hours.toNat = 11 then flipMeridiem t.meridiem else t.meridiem := by
  obtain ⟨-, hhour, -, -⟩ := h
  obtain ⟨hs, e⟩ | ⟨-, hm, e⟩ | ⟨hs, hm, e⟩ := cascade_cases t
  · rw [e, if_neg (hs ·.1)]
  · rw [e, if_neg (hm ·.2.1)]
  · rw [e]
    exact (hourCarry_meridiem hhour).trans (if_congr (by simp only [hs, hm, true_and]) rfl rfl)

theorem cascade_meridiem_ne_iff :
    (cascade t).meridiem ≠ t.meridiem ↔ t.seconds.toNat = 59 ∧ t.minutes.toNat = 59 ∧ t.hours.toNat = 11 := by
  rw [cascade_meridiem h]
  split_ifs with hflip
  · exact iff_of_true (flipMeridiem_ne t.meridiem) hflip
  · exact iff_of_false (fun hne => hne rfl) hflip

/-- R142: the meridiem flips on a change of the hour alone. -/
theorem cascade_meridiem_of_hours (hh : (cascade t).hours = t.hours) : (cascade t).meridiem = t.meridiem := by
  by_contra hne
  have hhours := cascade_hours h
  rw [hh] at hhours
  obtain ⟨hs, hm, hflip⟩ := (cascade_meridiem_ne_iff h).1 hne
  simp [hs, hm, hflip] at hhours

end

/-! ## The second of the day -/

/-- The seconds since the last noon or midnight; the hour 12 counts as 0 (R142). -/
def secondOfHalfDay (t : TimeOfDay) : Nat := t.hours.toNat % 12 * 3600 + t.minutes.toNat * 60 + t.seconds.toNat

/-- The seconds from midnight to noon. -/
def halfDayStart : Meridiem → Nat
  | .am => 0
  | .pm => 43200

/-- The seconds since midnight. -/
def secondOfDay (t : TimeOfDay) : Nat := halfDayStart t.meridiem + secondOfHalfDay t

section
variable {t : TimeOfDay} (h : ClockLegal t)
include h

theorem secondOfHalfDay_lt : secondOfHalfDay t < 43200 := by
  obtain ⟨-, -, hm, hs⟩ := h
  unfold secondOfHalfDay
  omega

theorem secondOfDay_lt : secondOfDay t < 86400 := by
  have := secondOfHalfDay_lt h
  unfold secondOfDay
  cases t.meridiem <;> simp only [halfDayStart] <;> omega

/-- R142: the meridiem flips at noon and at midnight. -/
theorem cascade_meridiem_ne_iff_secondOfHalfDay :
    (cascade t).meridiem ≠ t.meridiem ↔ secondOfHalfDay t = 43199 := by
  rw [cascade_meridiem_ne_iff h]
  obtain ⟨h1, h12, hm, hs⟩ := h
  unfold secondOfHalfDay
  omega

/-- R141, R142: a cascade advances the half day by one second, modulo the 43,200 seconds of a half day. -/
theorem secondOfHalfDay_cascade : secondOfHalfDay (cascade t) = (secondOfHalfDay t + 1) % 43200 := by
  unfold secondOfHalfDay
  rw [cascade_seconds h, cascade_minutes h, cascade_hours h]
  obtain ⟨-, h12, hm, hs⟩ := h
  split_ifs <;> omega

/-- R150 (a): a cascade advances the day by one second, modulo the 86,400 seconds of a day. -/
theorem secondOfDay_cascade : secondOfDay (cascade t) = (secondOfDay t + 1) % 86400 := by
  have hflip := cascade_meridiem_ne_iff_secondOfHalfDay h
  have hlt := secondOfHalfDay_lt h
  unfold secondOfDay
  rw [secondOfHalfDay_cascade h]
  by_cases hlast : secondOfHalfDay t = 43199
  · cases hm : t.meridiem <;> cases hm' : (cascade t).meridiem <;> simp [hm, hm', hlast, halfDayStart] at hflip ⊢
  · rw [not_not.1 (mt hflip.1 hlast)]
    cases t.meridiem <;> simp only [halfDayStart] <;> omega

end

/-- R150 (a): a legal time is known by its second of the day. -/
theorem eq_of_secondOfDay_eq {a b : TimeOfDay} (ha : ClockLegal a) (hb : ClockLegal b) (h : secondOfDay a = secondOfDay b) :
    a = b := by
  have hlta := secondOfHalfDay_lt ha
  have hltb := secondOfHalfDay_lt hb
  have hmer : a.meridiem = b.meridiem := by
    unfold secondOfDay at h
    cases hma : a.meridiem <;> cases hmb : b.meridiem <;> simp only [hma, hmb, halfDayStart] at h ⊢ <;> omega
  have hhalf : secondOfHalfDay a = secondOfHalfDay b := by
    unfold secondOfDay at h
    rw [hmer] at h
    omega
  obtain ⟨hra, mna, sca, mera⟩ := a
  obtain ⟨hrb, mnb, scb, merb⟩ := b
  simp only [ClockLegal, secondOfHalfDay] at ha hb hhalf
  obtain rfl : hra = hrb := BitVec.eq_of_toNat_eq (by omega)
  obtain rfl : mna = mnb := BitVec.eq_of_toNat_eq (by omega)
  obtain rfl : sca = scb := BitVec.eq_of_toNat_eq (by omega)
  obtain rfl : mera = merb := hmer
  rfl

/-! ## Many cascades -/

theorem cascades_succ (n : Nat) (t : TimeOfDay) : cascades (n + 1) t = cascade (cascades n t) := by
  induction n generalizing t with
  | zero => rfl
  | succ n ih => exact ih (cascade t)

theorem clockLegal_cascades {t : TimeOfDay} (h : ClockLegal t) (n : Nat) : ClockLegal (cascades n t) := by
  induction n generalizing t with
  | zero => exact h
  | succ n ih => exact ih (clockLegal_cascade h)

/-- R150 (a): `n` cascades advance the day by `n` seconds. -/
theorem secondOfDay_cascades {t : TimeOfDay} (h : ClockLegal t) (n : Nat) :
    secondOfDay (cascades n t) = (secondOfDay t + n) % 86400 := by
  induction n with
  | zero => exact (Nat.mod_eq_of_lt (secondOfDay_lt h)).symm
  | succ n ih =>
    rw [cascades_succ, secondOfDay_cascade (clockLegal_cascades h n), ih]
    omega

/-- Settles O58: the number of ticks is the difference of the two seconds of the day, modulo 86,400. -/
theorem legalTimesFormOneCycle : Obligations.LegalTimesFormOneCycle := by
  intro a b ha hb
  have hlta := secondOfDay_lt ha
  have hltb := secondOfDay_lt hb
  refine ⟨(secondOfDay b + (86400 - secondOfDay a)) % 86400, Nat.mod_lt _ (by omega),
    eq_of_secondOfDay_eq (clockLegal_cascades ha _) hb ?_⟩
  rw [secondOfDay_cascades ha]
  omega

/-- R150 (a): a whole day of cascades is the identity on legal times. -/
theorem cascades_day {t : TimeOfDay} (h : ClockLegal t) : cascades 86400 t = t :=
  eq_of_secondOfDay_eq (clockLegal_cascades h _) h <| by
    rw [secondOfDay_cascades h, Nat.add_mod_right, Nat.mod_eq_of_lt (secondOfDay_lt h)]

/-- R150 (c): the ticks of a run that flip the meridiem lie half a day apart. 129,599 is three half days less one second,
above every second of the day. -/
theorem cascades_flip_iff {t : TimeOfDay} (h : ClockLegal t) (n : Nat) :
    (cascades (n + 1) t).meridiem ≠ (cascades n t).meridiem ↔ n ≡ 129599 - secondOfDay t [MOD 43200] := by
  have hn := clockLegal_cascades h n
  have hlt := secondOfHalfDay_lt hn
  have hday : secondOfDay (cascades n t) % 43200 = secondOfHalfDay (cascades n t) := by
    unfold secondOfDay
    cases (cascades n t).meridiem <;> simp only [halfDayStart] <;> omega
  rw [cascades_succ, cascade_meridiem_ne_iff_secondOfHalfDay hn, ← hday, secondOfDay_cascades h, Nat.ModEq]
  have := secondOfDay_lt h
  omega

/-- Settles O59: the flips are the numbers of one residue modulo half a day, of which a day holds two. -/
theorem meridiemFlipsTwiceADay : Obligations.MeridiemFlipsTwiceADay := by
  intro a ha
  calc ((List.range 86400).filter fun n => (cascades (n + 1) a).meridiem ≠ (cascades n a).meridiem).length
    _ = Nat.count (· ≡ 129599 - secondOfDay a [MOD 43200]) 86400 := by
      rw [← List.countP_eq_length_filter]
      exact List.countP_congr fun n _ => by simp only [decide_eq_true_eq, cascades_flip_iff ha]
    _ = 2 := by rw [Nat.count_modEq_card _ (by omega)]; simp

/-! ## TICK -/

/-- R149: TICK completes from every legal WallClock. -/
theorem exec_tick {s : State} (h : ClockLegal s.wallTime) : exec .tick s = .next (tick chip s) :=
  tickWith_next.2 ⟨(legal_iff _).2 h, rfl⟩

/-- R141, R143, R149: a run of ticks completes, with a cascade and an inversion of `BLINK` for each. -/
theorem ticks_complete (n : Nat) {s : State} (h : ClockLegal s.wallTime) :
    ∃ t, ticks n s = .next t ∧ t.wallTime = cascades n s.wallTime ∧ t.blink = (!·)^[n] s.blink := by
  induction n generalizing s with
  | zero => exact ⟨s, rfl, rfl, rfl⟩
  | succ n ih =>
    have htick := tick_wallTime chip s
    obtain ⟨t, hrun, htime, hblink⟩ := ih (s := tick chip s) (by rw [htick]; exact clockLegal_cascade h)
    refine ⟨t, ?_, ?_, ?_⟩
    · rw [ticks, exec_tick h]
      exact hrun
    · rw [htime, htick, cascades]
    · rw [hblink, tick_blink, Function.iterate_succ_apply]

/-- Settles O57: a day of cascades is the identity and 86,400 inversions cancel. -/
theorem fullDayRoundTrip : Obligations.FullDayRoundTrip := by
  intro s h
  obtain ⟨t, hrun, htime, hblink⟩ := ticks_complete 86400 h
  refine ⟨t, hrun, htime.trans (cascades_day h), ?_⟩
  rw [hblink, Bool.involutive_not.iterate_even (by decide)]
  rfl

/-- Settles O54: the cascade in numbers. -/
theorem tickAdvancesOneSecond : Obligations.TickAdvancesOneSecond := by
  intro s h
  refine ⟨_, exec_tick h, ?_⟩
  have hnumbers : _ ∧ _ ∧ _ ∧ _ := ⟨cascade_seconds h, cascade_minutes h, cascade_hours h, cascade_meridiem_ne_iff h⟩
  rw [← tick_wallTime chip s] at hnumbers
  exact hnumbers

/-- Settles O56: the minute changes exactly from second 59, and the string laid down reads back. -/
theorem tickRegeneratesOnTheMinute : Obligations.TickRegeneratesOnTheMinute := by
  intro s h
  refine ⟨_, exec_tick h, fun hs => ?_, fun hs => ?_, ?_⟩
  · have hminute := (minuteChanges_eq_true s.wallTime).2 hs
    rw [tick_cursor, tick_tlen, tick_text, if_pos hminute, if_pos hminute, if_pos hminute]
    refine ⟨rfl, tlen_speak chip_legal .., Memory.wf_ofString (chip_speak_fits ..), fun j => ?_⟩
    rw [Memory.read_ofString, if_pos (Nat.zero_le j)]
    rfl
  · have hminute := mt (minuteChanges_eq_true s.wallTime).1 hs
    rw [tick_cursor, tick_tlen, tick_text, if_neg hminute, if_neg hminute, if_neg hminute]
    exact ⟨rfl, rfl, rfl⟩
  · rw [tick_frame]

/-- R145 in numbers. -/
theorem dim_iff (h : Byte) (mer : Meridiem) : dim h mer = true ↔ IsDim h.toNat mer := by
  simp [dim, IsDim, BitVec.toNat_eq]

/-- R145: outside SetTime `BRIGHT` is 0 exactly in the dim hours of the time after the cascade. -/
theorem tick_bright_iff {cfg : Config} {s : State} (hmode : s.pmode ≠ .setTime) :
    (tick cfg s).bright = false ↔ IsDim (cascade s.wallTime).hours.toNat (cascade s.wallTime).meridiem := by
  rw [tick_bright, if_neg hmode, Bool.not_eq_false', dim_iff]

/-- Settles O55: the flags by `tick_bright` and `tick_bright_iff`, the rest by the frame of a tick. -/
theorem tickSetsItsFlags : Obligations.TickSetsItsFlags := by
  intro s h
  refine ⟨_, exec_tick h, tick_blink .., tick_buzz .., fun hmode => ?_, fun hmode => ?_, tick_frame ..⟩
  · rw [tick_bright, if_pos hmode]
  · rw [tick_bright_iff hmode, ← tick_wallTime chip s]
    rfl

/-- Settles O60: with the hour kept the meridiem is kept too, so the rule gives the value `BRIGHT` had. -/
theorem brightnessChangesOnTheHour : Obligations.BrightnessChangesOnTheHour := by
  intro s t h hmode hrule hrun hbright hhours
  obtain ⟨-, rfl⟩ := tickWith_next.1 hrun
  have hhour : (cascade s.wallTime).hours = s.hours := (congrArg TimeOfDay.hours (tick_wallTime chip s)).symm.trans hhours
  have hmeridiem : (cascade s.wallTime).meridiem = s.meridiem := cascade_meridiem_of_hours h hhour
  have hsame : (tick chip s).bright = false ↔ s.bright = false := by
    rw [tick_bright_iff hmode, hhour, hmeridiem, hrule]
  exact hbright (Bool.eq_iff_iff.2 (by simpa using not_congr hsame))

end Sys2Proof.Proofs
end

section
/-! PROOFS. The family of 43_timer_interface.md: a firing out of force, and what TREG, TREV and TRST do to the channel their operand names,
or why they are refused. -/

open Sys2Proof Sys2Proof.Machine Sys2Proof.Claims

namespace Sys2Proof.Proofs

/-! ## A firing out of force -/

/-- R164: while the channel is not in force a firing has no effect. -/
theorem takeFiring_out_of_force {f : State → Outcome} {c : Channel} {s : State} (h : (s.chan c).en = false) :
    takeFiring f c s = .next s := by
  rw [takeFiring, h]
  rfl

/-- Settles O12: the event is delivered to its channel, where it has no effect. -/
theorem firingOutOfForceDoesNothing : Obligations.FiringOutOfForceDoesNothing := by
  intro s ev c rest hi hdec hen
  rw [step_eq, transition_event hi, deliverEvent, hdec]
  exact takeFiring_out_of_force (by rwa [chan_inputs])

/-! ## The operands of a timer command -/

/-- R161 to R163: no channel is named above 1. -/
theorem channelOf_of_gt {ch : Byte} (h : 1 < ch.toNat) : channelOf ch = none := by
  have h0 : ch ≠ 0 := by rintro rfl; exact absurd h (by decide)
  have h1 : ch ≠ 1 := by rintro rfl; exact absurd h (by decide)
  rw [channelOf, if_neg h0, if_neg h1]

/-- R161: channel 0 takes the period of a second alone. -/
theorem periodLegal_ch0 {ms : Half} : periodLegal .ch0 ms = true ↔ ms = 1000 := by
  have hne : ms = 1000 → ms ≠ 0 := by rintro rfl; decide
  simpa [periodLegal] using hne

/-- R161: channel 1 takes any period but 0. -/
theorem periodLegal_ch1 {ms : Half} : periodLegal .ch1 ms = true ↔ ms ≠ 0 := by
  simp [periodLegal]

/-! ## What a timer command does -/

section
variable {s : State} {ch : Byte} {ms : Half}

/-- R161 to R163, R191: a timer command whose operand names no channel is refused. -/
theorem exec_of_channelOf_none {i : Instr} (hi : i ∈ [.treg ch ms, .trev ch, .trst ch]) (h : channelOf ch = none) :
    exec i s = .next (refusedWith 0x02 s) := by
  simp only [List.mem_cons, List.not_mem_nil, or_false] at hi
  obtain rfl | rfl | rfl := hi
  · rw [exec, execTreg, h]
    rfl
  · rw [exec, execTrev, h]
    rfl
  · rw [exec, execTrst, h]
    rfl

variable {c : Channel} (hc : channelOf ch = some c)
include hc

/-- R161: TREG of a legal period. -/
theorem exec_treg_of_legal (hp : periodLegal c ms = true) :
    exec (.treg ch ms) s = .next (answered 0x00 (s.setChan c { reg := true, en := true, period := ms, pend := false })) := by
  rw [exec, execTreg, hc]
  exact if_pos hp

/-- R161, R191: TREG of an illegal period. -/
theorem exec_treg_of_illegal (hp : ¬ periodLegal c ms = true) : exec (.treg ch ms) s = .next (refusedWith 0x02 s) := by
  rw [exec, execTreg, hc]
  exact if_neg hp

/-- R162: TREV of a registered channel. -/
theorem exec_trev_of_registered (hr : (s.chan c).reg = true) :
    exec (.trev ch) s = .next (answered 0x00 (s.setChan c { s.chan c with en := false, pend := false })) := by
  rw [exec, execTrev, hc]
  exact if_pos hr

/-- R162, R192: TREV of an unregistered channel. -/
theorem exec_trev_of_unregistered (hr : (s.chan c).reg = false) : exec (.trev ch) s = .next (refusedWith 0x04 s) := by
  rw [exec, execTrev, hc]
  exact if_neg (Bool.eq_false_iff.1 hr)

/-- R163: TRST of a registered channel. -/
theorem exec_trst_of_registered (hr : (s.chan c).reg = true) :
    exec (.trst ch) s = .next (answered 0x00 (s.setChan c { s.chan c with en := true })) := by
  rw [exec, execTrst, hc]
  exact if_pos hr

/-- R163, R192: TRST of an unregistered channel. -/
theorem exec_trst_of_unregistered (hr : (s.chan c).reg = false) : exec (.trst ch) s = .next (refusedWith 0x04 s) := by
  rw [exec, execTrst, hc]
  exact if_neg (Bool.eq_false_iff.1 hr)

end

/-- Settles O36: which periods are legal is `periodLegal_ch0` and `periodLegal_ch1`. -/
theorem tregRegistersTheChannel : Obligations.TregRegistersTheChannel := fun _ ms =>
  ⟨fun h => exec_treg_of_legal (c := .ch0) rfl (periodLegal_ch0.2 h),
    fun h => exec_treg_of_illegal (c := .ch0) rfl (mt periodLegal_ch0.1 h),
    fun h => exec_treg_of_legal (c := .ch1) rfl (periodLegal_ch1.2 h),
    fun h => exec_treg_of_illegal (c := .ch1) rfl (mt periodLegal_ch1.1 (not_not_intro h)),
    fun _ h => exec_of_channelOf_none (ms := ms) (by simp) (channelOf_of_gt h)⟩

/-- Settles O37: the operands 0 and 1 name the two channels, a larger one names none. -/
theorem trevRevokesTheChannel : Obligations.TrevRevokesTheChannel := fun _ =>
  ⟨exec_trev_of_registered (c := .ch0) rfl, exec_trev_of_unregistered (c := .ch0) rfl,
    exec_trev_of_registered (c := .ch1) rfl, exec_trev_of_unregistered (c := .ch1) rfl,
    fun _ h => exec_of_channelOf_none (ms := 0) (by simp) (channelOf_of_gt h),
    fun _ _ => decodeCommand_of_b_ne_zero (by decide)⟩

/-- Settles O38: the operands 0 and 1 name the two channels, a larger one names none. -/
theorem trstReinstatesTheChannel : Obligations.TrstReinstatesTheChannel := fun _ =>
  ⟨exec_trst_of_registered (c := .ch0) rfl, exec_trst_of_unregistered (c := .ch0) rfl,
    exec_trst_of_registered (c := .ch1) rfl, exec_trst_of_unregistered (c := .ch1) rfl,
    fun _ h => exec_of_channelOf_none (ms := 0) (by simp) (channelOf_of_gt h),
    fun _ _ => decodeCommand_of_b_ne_zero (by decide)⟩

end Sys2Proof.Proofs
end

section
/-! PROOFS. The family of 44_host_access.md: what the block does by itself neither goes by the schedule nor changes it, so a host word in it
waits; then the host's access to the registers, by their map in the order of their numbers, and to the text. -/

open Sys2Proof Sys2Proof.Machine Sys2Proof.Claims

namespace Sys2Proof.Proofs

/-! ## The block's own step and the schedule -/

/-- The state with `l` for its schedule. -/
def scheduled (l : List Input) (s : State) : State := { s with inputs := l }

/-- The outcome with `l` for the schedule of its next state, if it has one. -/
def scheduledNext (l : List Input) : Outcome → Outcome
  | .next t => .next (scheduled l t)
  | .fault f => .fault f
  | .refused r => .refused r

theorem scheduledNext_eq_fault {l : List Input} {o : Outcome} {f : Fault} : scheduledNext l o = .fault f ↔ o = .fault f := by
  cases o <;> simp [scheduledNext]

theorem scheduledNext_eq_refused {l : List Input} {o : Outcome} {r : Refusal} :
    scheduledNext l o = .refused r ↔ o = .refused r := by
  cases o <;> simp [scheduledNext]

section
variable (l : List Input) (s : State)

/-- R103, R114: phase DRIVE goes by the sequencer's place and by what the slot's pattern reads. -/
theorem driveStep_scheduled (cfg : Config) : driveStep cfg (scheduled l s) = scheduledNext l (driveStep cfg s) := by
  have hrep : (scheduled l s).seqRep = s.seqRep := rfl
  have hn : (scheduled l s).seqN = s.seqN := rfl
  have hplace : (scheduled l s).seqPos = s.seqPos := rfl
  have hpat : slotPattern cfg (scheduled l s) s.seqPos = slotPattern cfg s s.seqPos := rfl
  rw [driveStep, driveStep, hrep, hn, hplace, hpat]
  split
  · rfl
  · cases slotPattern cfg s s.seqPos <;> rfl

/-- R103: phase BLANK goes by the position. -/
theorem blankStep_scheduled (cfg : Config) : blankStep cfg (scheduled l s) = scheduled l (blankStep cfg s) := by
  have hplace : (scheduled l s).seqPos = s.seqPos := rfl
  rw [blankStep, blankStep, hplace]
  cases s.seqPos.next? <;> rfl

/-- R118: phase SIRENCHK goes by the siren condition. -/
theorem sirenChkStep_scheduled : sirenChkStep (scheduled l s) = scheduled l (sirenChkStep s) := by
  have hdue : (scheduled l s).sirenDue = s.sirenDue := rfl
  rw [sirenChkStep, sirenChkStep, hdue]
  cases s.sirenDue <;> rfl

/-- R121: a completion goes by the context of the pass. -/
theorem complete_scheduled : complete (scheduled l s) = scheduled l (complete s) := by
  have hctx : (scheduled l s).seqCtx = s.seqCtx := rfl
  rw [complete, complete, hctx]
  cases s.seqCtx <;> rfl

/-- R116, R117: a scroll goes by `ROT`, `CURSOR` and `TLEN`. -/
theorem scrollAdvance_scheduled : scrollAdvance (scheduled l s) = scheduled l (scrollAdvance s) := by
  have hrot : (scheduled l s).rot = s.rot := rfl
  rw [scrollAdvance, scrollAdvance, hrot]
  split <;> rfl

/-- R116, R121: phase SCROLL goes by `DMODE` besides. -/
theorem scrollStep_scheduled : scrollStep (scheduled l s) = scheduled l (scrollStep s) := by
  have hmode : (scheduled l s).dmode = s.dmode := rfl
  rw [scrollStep, scrollStep, hmode, scrollAdvance_scheduled, complete_scheduled, complete_scheduled]
  cases s.dmode <;> rfl

/-- R103: no phase of the sequencer goes by the schedule. -/
theorem microStep_scheduled (cfg : Config) : microStep cfg (scheduled l s) = scheduledNext l (microStep cfg s) := by
  have hphase : (scheduled l s).seqPhase = s.seqPhase := rfl
  rw [microStep, microStep, hphase]
  cases s.seqPhase with
  | drive => exact driveStep_scheduled l s cfg
  | blank => exact congrArg _ (blankStep_scheduled l s cfg)
  | sirenChk => exact congrArg _ (sirenChkStep_scheduled l s)
  | sirenClr => rfl
  | scroll => exact congrArg _ (scrollStep_scheduled l s)

/-- R140: TICK goes by WallClock and `PMODE`. -/
theorem tickWith_scheduled (cfg : Config) : tickWith cfg (scheduled l s) = scheduledNext l (tickWith cfg s) := by
  have htime : (scheduled l s).wallTime = s.wallTime := rfl
  have htick : tick cfg (scheduled l s) = scheduled l (tick cfg s) := by
    rw [tick, tick, htime]
    cases minuteChanges s.wallTime <;> rfl
  rw [tickWith, tickWith, htime, htick]
  split <;> rfl

/-- R120, R140: neither callback goes by the schedule. -/
theorem exec_callback_scheduled (c : Channel) :
    exec c.callback (scheduled l s) = scheduledNext l (exec c.callback s) := by
  cases c with
  | ch0 => exact tickWith_scheduled l s chip
  | ch1 => rfl

/-- R197, R199: what is served next goes by the latches and the free choices. -/
theorem nextPending_scheduled :
    nextPending (scheduled l s) = (nextPending s).map fun (c, t) => (c, scheduled l t) := by
  have hdue : (scheduled l s).due = s.due := by funext c; cases c <;> rfl
  rw [nextPending, nextPending, hdue]
  cases s.due .ch0 <;> cases s.due .ch1 <;> rfl

/-- R103, R199, R220: which transition of its own the block makes next does not go by the schedule. -/
theorem ownAction_scheduled : ownAction (scheduled l s) = ((ownAction s).1, scheduled l (ownAction s).2) := by
  have hctx : (scheduled l s).hctx = s.hctx := rfl
  have hact : (scheduled l s).seqActive = s.seqActive := rfl
  rw [ownAction, ownAction, hctx, hact, nextPending_scheduled]
  cases s.hctx with
  | refresh => cases s.seqActive <;> rfl
  | none =>
    cases nextPending s with
    | none => cases s.seqActive <;> rfl
    | some served => obtain ⟨c, t⟩ := served; cases c <;> rfl

/-- R50, R185: the step the block makes by itself is the same under every schedule and leaves the schedule as it is. -/
theorem ownStep_scheduled : ownStep exec chip (scheduled l s) = scheduledNext l (ownStep exec chip s) := by
  rw [ownStep, ownStep, ownAction_scheduled]
  obtain ⟨action, t⟩ := ownAction s
  cases action with
  | serve c => exact exec_callback_scheduled l t c
  | sequencer => exact microStep_scheduled l t chip
  | _ => rfl

end

/-- R185: while a handler runs or a pass is in progress the host may not step. -/
theorem hostMayStep_eq_false {s : State} (h : s.hctx = .refresh ∨ s.seqActive = true) : s.hostMayStep = false := by
  refine Bool.eq_false_iff.2 fun hm => ?_
  obtain ⟨hnone, hidle, -, -⟩ := hostMayStep_iff.1 hm
  obtain href | hact := h
  · cases hnone.symm.trans href
  · cases hidle.symm.trans hact

/-- Settles O10: the step is the block's own, which `ownStep_scheduled` compares with the one under the empty schedule, and with itself
under its own. -/
theorem hostWordWaitsForTheBlock : Obligations.HostWordWaitsForTheBlock := by
  intro s w rest hi hbusy
  have hown : step s = ownStep exec chip s := transition_blocked hi (hostMayStep_eq_false hbusy)
  have hkeep : step s = scheduledNext s.inputs (step s) := by
    rw [hown]
    exact ownStep_scheduled s.inputs s
  have hempty : step { s with inputs := [] } = scheduledNext [] (step s) := by
    rw [hown]
    exact (transition_nil rfl).trans (ownStep_scheduled [] s)
  refine ⟨fun t ht => ?_, fun f => ?_, fun r => ?_⟩
  · rw [ht] at hkeep hempty
    have hinputs : t = scheduled s.inputs t := Host.Outcome.next.inj hkeep
    exact ⟨by rw [hinputs]; rfl, hempty⟩
  · rw [hempty, scheduledNext_eq_fault]
  · rw [hempty, scheduledNext_eq_refused]

/-! ## The register map

The constructors of `Reg` stand in the order of the numbers of R33, so a register's number is its `Reg.ctorIdx`. -/

/-- R33: the registers in the order of their numbers. -/
def registerMap : List Reg :=
  [.hours, .minutes, .seconds, .meridiem, .blink, .aHours, .aMinutes, .aSeconds, .aMeridiem, .bright, .pmode, .dmode,
   .cursor, .rot, .tlen, .buzz, .ringing, .switch, .seg, .pos, .tstat0, .tstat1, .fault, .encout]

/-- R33: a number names the register at its place in the map. -/
theorem regOf_eq_getElem? (r : Byte) : regOf r = registerMap[r.toNat]? := rfl

/-- R33: the numbers from `0x18` on are unassigned. -/
theorem regOf_eq_none_iff {r : Byte} : regOf r = none ↔ 0x17 < r.toNat := List.getElem?_eq_none_iff

/-- R33: the numbers up to `0x17` are assigned. -/
theorem exists_regOf {r : Byte} (h : r.toNat ≤ 0x17) : ∃ reg, regOf r = some reg :=
  Option.ne_none_iff_exists'.1 (mt regOf_eq_none_iff.1 (Nat.not_lt.2 h))

/-- R33: a register has one number. -/
theorem toNat_of_regOf {r : Byte} {reg : Reg} (h : regOf r = some reg) : r.toNat = reg.ctorIdx := by
  have hnumber : ∀ r : Byte, ∀ reg ∈ regOf r, r.toNat = reg.ctorIdx := by decide
  exact hnumber r reg h

/-! ## Reading -/

/-- R28: the three bits of a channel, by place and by weight. -/
theorem tstatByte_eq_tstat (t : TimerChannel) : tstatByte t = tstat t := by
  have hbits : ∀ pend en reg : Bool,
      ((BitVec.ofBool pend ++ BitVec.ofBool en) ++ BitVec.ofBool reg).setWidth 8 = 4 * bit pend + 2 * bit en + bit reg := by decide
  exact hbits t.pend t.en t.reg

/-- R33, R181: the numbers read what the registers read, in the order of the map. -/
theorem registers_eq_map (s : State) : registers s = registerMap.map (regRead · s) := by
  have hmeridiem : ∀ m : Meridiem, bit (m = .pm) = meridiemByte m := by intro m; cases m <;> rfl
  have hdmode : ∀ d : DisplayMode, bit (d = .scrollingText) = dmodeByte d := by intro d; cases d <;> rfl
  have hswitch : ∀ l : Level, bit (l = .low) = switchByte l := by intro l; cases l <;> rfl
  simp only [registers, registerMap, List.map_cons, List.map_nil, regRead, hmeridiem, hdmode, hswitch, tstatByte_eq_tstat,
    BitVec.ofNat_toNat]
  cases s.pmode <;> rfl -- what is left is the code of `PMODE`, a match on both sides

/-- R181: a number reads what its register reads. -/
theorem register_of_regOf {s : State} {r : Byte} {reg : Reg} (h : regOf r = some reg) : register s r = regRead reg s := by
  rw [register, registers_eq_map, List.getD_eq_getElem?_getD, List.getElem?_map, ← regOf_eq_getElem?, h]
  rfl

/-- R181: RD of an assigned number. -/
theorem exec_rd_of_regOf {s : State} {r : Byte} {reg : Reg} (h : regOf r = some reg) :
    exec (.rd r) s = .next (answered (register s r) s) := by
  rw [exec, execRd, h, register_of_regOf h]
  rfl

/-- R181, R191: RD of an unassigned number. -/
theorem exec_rd_of_regOf_none {s : State} {r : Byte} (h : regOf r = none) : exec (.rd r) s = .next (refusedWith 0x02 s) := by
  rw [exec, execRd, h]
  rfl

/-- R115, R185: where the host may step no slot is driven. -/
theorem outputs_blank_of_hostMayStep {s : State} (hinv : s.Inv) (hm : s.hostMayStep = true) : s.seg = 0 ∧ s.pos = 0 := by
  obtain ⟨-, hidle, -, -⟩ := hostMayStep_iff.1 hm
  exact hinv.blanked (by simp [State.dwelling, hidle])

/-- R28: bit 2 of TSTAT is the latch. -/
theorem tstat_lt_of_pend {t : TimerChannel} (h : t.pend = false) : (tstat t).toNat < 4 := by
  rw [tstat, h]
  cases t.en <;> cases t.reg <;> decide

/-- Settles O32: an assigned number reads its register; where the host may step no slot is driven and no latch is set. -/
theorem rdReturnsTheRegister : Obligations.RdReturnsTheRegister := by
  intro s r
  refine ⟨fun h => ?_, fun h => exec_rd_of_regOf_none (regOf_eq_none_iff.2 h),
    fun _ => decodeCommand_of_b_ne_zero (by decide), fun hinv hm => ?_⟩
  · obtain ⟨reg, hr⟩ := exists_regOf h
    exact exec_rd_of_regOf hr
  · obtain ⟨hseg, hpos⟩ := outputs_blank_of_hostMayStep hinv hm
    obtain ⟨-, -, hdue0, hdue1⟩ := hostMayStep_iff.1 hm
    exact ⟨hseg, congrArg (fun p : Select => BitVec.ofNat 8 p.toNat) hpos,
      tstat_lt_of_pend (pend_false hinv.channel0 hdue0), tstat_lt_of_pend (pend_false hinv.channel1 hdue1)⟩

/-! ## Writing -/

/-- R33: the values a register takes are those of its row in the table of writable registers; a read-only register has no row. -/
theorem regLegal_iff_writable {reg : Reg} {v : Byte} : regLegal reg v = true ↔
    ∃ lo hi, (reg.ctorIdx, lo, hi) ∈ writable ∧ lo ≤ v.toNat ∧ v.toNat ≤ hi := by
  cases reg <;> simp [regLegal, hourLegal, sixtyLegal, writable, Reg.ctorIdx, textMax, Nat.lt_succ_iff]

/-- R33: a register that takes a value is not read-only. -/
theorem regReadOnly_of_regLegal {reg : Reg} {v : Byte} (h : regLegal reg v = true) : regReadOnly reg = false := by
  cases reg with
  | switch | seg | pos | tstat0 | tstat1 | fault | encout => cases h
  | _ => rfl

/-- R33, R180: a register reads the legal value written to it; the codes of the enumerated registers are read back. -/
theorem regRead_regWrite {reg : Reg} {v : Byte} (s : State) (h : regLegal reg v = true) : regRead reg (regWrite reg v s) = v := by
  have hbit : ∀ v : Byte, decide (v.toNat ≤ 1) = true → boolByte (v != 0) = v := by decide
  have hmeridiem : ∀ v : Byte, decide (v.toNat ≤ 1) = true → meridiemByte (meridiemOfByte v) = v := by decide
  have hpmode : ∀ v : Byte, decide (v.toNat ≤ 3) = true → pmodeByte (pmodeOfByte v) = v := by decide
  have hdmode : ∀ v : Byte, decide (v.toNat ≤ 1) = true → dmodeByte (dmodeOfByte v) = v := by decide
  cases reg with
  | hours | minutes | seconds | aHours | aMinutes | aSeconds | cursor | rot | tlen => rfl
  | blink | bright | buzz | ringing => exact hbit v h
  | meridiem | aMeridiem => exact hmeridiem v h
  | pmode => exact hpmode v h
  | dmode => exact hdmode v h
  | switch | seg | pos | tstat0 | tstat1 | fault | encout => cases h

/-- R180: of what the numbers read, a write changes the entry of its register alone. -/
theorem registers_regWrite (reg : Reg) (v : Byte) (s : State) :
    registers (regWrite reg v s) = (registers s).set reg.ctorIdx (regRead reg (regWrite reg v s)) := by
  rw [registers_eq_map, registers_eq_map]
  cases reg <;> rfl

/-- R180: after a write of a legal value to register number `r`, number `q` reads that value if it is `r`, else as before. -/
theorem register_regWrite {s : State} {r q v : Byte} {reg : Reg} (hr : regOf r = some reg) (hl : regLegal reg v = true)
    (hq : q.toNat ≤ 0x17) : register (regWrite reg v s) q = if q.toNat = r.toNat then v else register s q := by
  have hlen : q.toNat < (registers s).length := Nat.lt_succ_of_le hq
  rw [register, register, registers_regWrite, regRead_regWrite s hl, ← toNat_of_regOf hr, List.getD_eq_getElem?_getD,
    List.getD_eq_getElem?_getD, List.getElem?_set]
  by_cases h : q.toNat = r.toNat
  · rw [if_pos h, if_pos h.symm, ← h, if_pos hlen]
    rfl
  · rw [if_neg h, if_neg (Ne.symm h)]

/-- R180: what no number reaches whole a write leaves. -/
theorem regWrite_sameUnnumbered (reg : Reg) (v : Byte) (s : State) : SameUnnumbered s (regWrite reg v s) := by
  rw [regWrite_frame]
  exact ⟨rfl, rfl, rfl, rfl, rfl, rfl, rfl, rfl, rfl, rfl, rfl, rfl, rfl, rfl⟩

/-- R180: WR of a legal value. -/
theorem exec_wr_of_legal {s : State} {r v : Byte} {reg : Reg} (hr : regOf r = some reg) (hl : regLegal reg v = true) :
    exec (.wr r v) s = .next (answered 0x00 (regWrite reg v s)) := by
  rw [exec, execWr, hr]
  simp only [regReadOnly_of_regLegal hl, hl]
  rfl

/-- R180, R191: WR of a number without a register, or of a value its register does not take. -/
theorem exec_wr_of_illegal {s : State} {r v : Byte} (h : ∀ reg, regOf r = some reg → regLegal reg v = false) :
    exec (.wr r v) s = .next (refusedWith 0x02 s) := by
  rw [exec, execWr]
  cases hr : regOf r with
  | none => rfl
  | some reg =>
    simp only [h reg hr, Bool.false_eq_true, if_false, ite_self]
    rfl

/-- Settles O30: a row of the table is of a register that takes the row's values, and what a write leaves is `register_regWrite` and
`regWrite_sameUnnumbered`. -/
theorem wrWritesTheNamedRegister : Obligations.WrWritesTheNamedRegister := by
  intro s n lo hi v hmem hlo hhi
  have hn : n ≤ 0x10 := (by decide : ∀ row ∈ writable, row.1 ≤ 0x10) _ hmem
  have htoNat : (BitVec.ofNat 8 n).toNat = n := Nat.mod_eq_of_lt (by omega)
  obtain ⟨reg, hr⟩ := exists_regOf (r := BitVec.ofNat 8 n) (by omega)
  have hnumber : n = reg.ctorIdx := htoNat.symm.trans (toNat_of_regOf hr)
  have hl : regLegal reg v = true := regLegal_iff_writable.2 ⟨lo, hi, hnumber ▸ hmem, hlo, hhi⟩
  refine ⟨_, exec_wr_of_legal hr hl, ?_, regWrite_sameUnnumbered reg v s, fun q hq => ?_⟩
  · rw [answered, regWrite_frame]
    rfl
  · have hread := register_regWrite (s := s) hr hl hq
    rwa [htoNat] at hread

/-- Settles O31: a value the register of the number takes would be in a row of the table. -/
theorem wrRefusesEverythingElse : Obligations.WrRefusesEverythingElse := by
  intro s r v h
  refine exec_wr_of_illegal fun reg hr => Bool.eq_false_iff.2 fun hl => ?_
  obtain ⟨lo, hi, hmem, hrange⟩ := regLegal_iff_writable.1 hl
  exact h _ lo hi hmem (toNat_of_regOf hr) hrange

/-! ## The text -/

/-- R43 in numbers. -/
theorem textIndexLegal_iff {i : Byte} : textIndexLegal i = true ↔ i.toNat < 64 := decide_eq_true_iff

/-- R43, R191: a text command whose index lies outside the buffer is refused. -/
theorem exec_of_textIndex_illegal {s : State} {i c : Byte} {x : Instr} (hx : x ∈ [.wrt i c, .rdt i]) (h : 64 ≤ i.toNat) :
    exec x s = .next (refusedWith 0x02 s) := by
  have hillegal : ¬ textIndexLegal i = true := mt textIndexLegal_iff.1 (Nat.not_lt.2 h)
  simp only [List.mem_cons, List.not_mem_nil, or_false] at hx
  obtain rfl | rfl := hx
  · exact if_neg hillegal
  · exact if_neg hillegal

/-- R61: a word of WRT with `b[15:8]` not zero is refused. -/
theorem decodeCommand_wrt_of_high_ne_zero {i v c : Byte} (hv : v ≠ 0) :
    decodeCommand (((0x32 : Byte) ++ i) ++ (v ++ c)) = .error .badOperand := by
  change decodeCommand (commandWord 0x32 i (v ++ c)) = _
  generalize hw : commandWord 0x32 i (v ++ c) = w
  have hop : fieldOp w = 0x32 := hw ▸ fieldOp_commandWord ..
  have hb : fieldB w = v ++ c := hw ▸ fieldB_commandWord ..
  have hhigh : fieldBHigh w = v := status_eq_of_append_eq ((fieldB_halves w).symm.trans hb)
  replace hv : v ≠ 0#8 := hv -- the spelling of zero that `simp` reaches
  simp [decodeCommand, whenZero, hop, hhigh, hv]

/-- Settles O33: the buffer written reads back by `Memory.read_write` and keeps its form by `Memory.wf_write`. -/
theorem wrtStoresOneCharacter : Obligations.WrtStoresOneCharacter := by
  intro s i c
  refine ⟨fun hi hwf => ⟨Memory.write s.text i.toNat c, if_pos (textIndexLegal_iff.2 hi), ?_, ?_⟩,
    fun hi => exec_of_textIndex_illegal (c := c) (by simp) hi, fun _ => decodeCommand_wrt_of_high_ne_zero⟩
  · exact Memory.wf_write hwf hi c
  · exact Memory.read_write hwf i.toNat c

/-- Settles O34: RDT of an index within the buffer answers, of another it is refused. -/
theorem rdtReturnsTheCharacter : Obligations.RdtReturnsTheCharacter := fun _ _ =>
  ⟨fun hi => if_pos (textIndexLegal_iff.2 hi), fun hi => exec_of_textIndex_illegal (c := 0) (by simp) hi,
    fun _ => decodeCommand_of_b_ne_zero (by decide)⟩

/-- R61: a word of REGEN with `a` not zero is refused. -/
theorem decodeCommand_regen_of_a_ne_zero {a : Byte} (b : Half) (ha : a ≠ 0) :
    decodeCommand (((0x40 : Byte) ++ a) ++ b) = .error .badOperand := by
  change decodeCommand (commandWord 0x40 a b) = _
  replace ha : a ≠ 0#8 := ha -- the spelling of zero that `simp` reaches
  simp [decodeCommand, whenZero, ha]

/-- Settles O35: the string laid down fits, so the buffer is in form, and it reads back character by character. -/
theorem regenRewritesTheText : Obligations.RegenRewritesTheText := by
  refine ⟨fun s => ?_, fun a b hab => hab.elim (decodeCommand_regen_of_a_ne_zero b) (decodeCommand_of_b_ne_zero (by decide))⟩
  have hfits : (chip.speak s.hours s.minutes s.meridiem).length ≤ 64 := chip_speak_fits ..
  refine ⟨Memory.ofString 0 (chip.speak s.hours s.minutes s.meridiem), rfl, Memory.wf_ofString hfits, hfits, fun j => ?_⟩
  rw [Memory.read_ofString, if_pos (Nat.zero_le j)]
  rfl

end Sys2Proof.Proofs
end

section
/-! PROOFS. The family of 60_exceptions.md: what becomes of a firing, which pending callback is served, why no step stops under the
invariant, and when the answer of an operation is BAD_OPERAND. -/

open Sys2Proof Sys2Proof.Machine Sys2Proof.Claims

namespace Sys2Proof.Proofs

/-- A byte of one bit is 0 or 1. -/
theorem eq_zero_or_one_of_le {v : Byte} (h : v.toNat ≤ 1) : v = 0 ∨ v = 1 := by
  have hbits : ∀ v : Byte, v.toNat ≤ 1 → v = 0 ∨ v = 1 := by decide
  exact hbits v h

/-! ## Firings -/

/-- R62, R195: the code of a channel is delivered to it, the event taken from the schedule. -/
theorem step_event {s : State} {ev : Byte} {rest : List Input} {c : Channel} (hi : s.inputs = .event ev :: rest)
    (hdec : decodeEvent ev = some c) : step s = takeFiring (exec c.callback) c { s with inputs := rest } := by
  rw [step_eq, transition_event hi, deliverEvent, hdec]

/-- Settles O9: with the latch clear the firing is dispatched, with the latch set it is lost. -/
theorem firingRunsTheCallback : Obligations.FiringRunsTheCallback := by
  intro s ev rest c hi hdec hen
  rw [step_event hi hdec]
  exact ⟨fun hclear hnone => takeFiring_runs (by rwa [chan_inputs]) (by rwa [chan_inputs]) hnone,
    fun hset => takeFiring_lost (by rwa [chan_inputs])⟩

/-- R201: latching a channel that is pending already changes nothing. -/
theorem latch_of_pend {c : Channel} {s : State} (h : (s.chan c).pend = true) : latch c s = s := by
  have hsame : { s.chan c with pend := true } = s.chan c := by rw [← h]
  rw [latch, hsame]
  cases c <;> rfl

/-- R196, R201: a firing in force during the handler leaves its latch set, whether it sets it or finds it so. -/
theorem takeFiring_in_handler {f : State → Outcome} {c : Channel} {s : State} (hen : (s.chan c).en = true)
    (hh : s.hctx = .refresh) : takeFiring f c s = .next (latch c s) := by
  cases hp : (s.chan c).pend with
  | true => rw [takeFiring_lost hp, latch_of_pend hp]
  | false =>
    rw [takeFiring, hen, hp, hh]
    rfl

/-- Settles O11: both channels by `takeFiring_in_handler`. -/
theorem firingInTheHandlerIsLatched : Obligations.FiringInTheHandlerIsLatched := by
  intro s rest hh
  refine ⟨fun hi hen => ?_, fun hi hen => ?_⟩
  · exact (step_event (c := .ch0) hi rfl).trans (takeFiring_in_handler hen hh)
  · exact (step_event (c := .ch1) hi rfl).trans (takeFiring_in_handler hen hh)

/-! ## Pending callbacks -/

/-- R199: once no handler runs the block's own step is the callback served, its latch cleared. -/
theorem ownStep_serve {ex : Instr → State → Outcome} {cfg : Config} {s v : State} {c : Channel} (hh : s.hctx = .none)
    (hp : nextPending s = some (c, v)) : ownStep ex cfg s = ex c.callback (clearPending c v) := by
  rw [ownStep, ownAction, hh, hp]

/-- R185, R199: while a callback is due the host may not step, and under an empty schedule or a host word the step is the block's own. -/
theorem step_of_due {s : State} {c : Channel} (hi : s.inputs = [] ∨ ∃ w rest, s.inputs = .command w :: rest)
    (hdue : s.due c = true) : step s = ownStep exec chip s := by
  obtain hnil | ⟨w, rest, hword⟩ := hi
  · exact transition_nil hnil
  · refine transition_blocked hword (Bool.eq_false_iff.2 fun hm => ?_)
    obtain ⟨-, -, h0, h1⟩ := hostMayStep_iff.1 hm
    cases c
    · cases hdue.symm.trans h0
    · cases hdue.symm.trans h1

/-- Settles O13: `nextPending` names the callback by the two latches, and with both set by the free choice. -/
theorem pendingCallbackRunsBeforeTheHost : Obligations.PendingCallbackRunsBeforeTheHost := by
  intro s hh hi
  refine ⟨fun h0 h1 => ?_, fun h0 h1 => ?_, fun h0 h1 => ?_⟩
  · have hp : nextPending s = some (.ch0, s) := by rw [nextPending, h0, h1]
    exact (step_of_due hi h0).trans (ownStep_serve hh hp)
  · have hp : nextPending s = some (.ch1, s) := by rw [nextPending, h0, h1]
    exact (step_of_due hi h1).trans (ownStep_serve hh hp)
  · have hp : nextPending s = some (Config.pendingFirst s.choice, { s with choice := s.choice + 1 }) := by
      rw [nextPending, h0, h1]
    have hserve := (step_of_due hi h0).trans (ownStep_serve hh hp)
    cases hfirst : Config.pendingFirst s.choice with
    | ch0 => exact .inl (by rw [hserve, hfirst]; rfl)
    | ch1 => exact .inr (by rw [hserve, hfirst]; rfl)

/-! ## No step stops -/

section
variable {cfg : Config} {s : State}

/-- R149, R190: of the operations only TICK can stop, and it does not on a legal WallClock. -/
theorem execWith_completes (i : Instr) (hclock : s.wallTime.legal = true) : ∃ t, execWith cfg i s = .next t := by
  cases i <;> simp only [execWith, encdWith, encpWith, execRender, execTreg, execTrev, execTrst, execWr, execRd, execWrt, execRdt]
  case tick => exact ⟨_, tickWith_next.2 ⟨hclock, rfl⟩⟩
  case encc | regen | refresh => exact ⟨_, rfl⟩
  case encd | encp | render | rd | wrt | rdt => split <;> exact ⟨_, rfl⟩
  case treg | trev | trst =>
    split
    · exact ⟨_, rfl⟩
    · split <;> exact ⟨_, rfl⟩
  case wr =>
    split
    · exact ⟨_, rfl⟩
    · split
      · exact ⟨_, rfl⟩
      · split <;> exact ⟨_, rfl⟩

/-- R195, R196, R201: a firing stops only where its callback does. -/
theorem takeFiring_completes {f : State → Outcome} (c : Channel) (hf : ∃ t, f s = .next t) :
    ∃ t, takeFiring f c s = .next t := by
  cases hen : (s.chan c).en with
  | false => exact ⟨s, takeFiring_out_of_force hen⟩
  | true =>
    cases hp : (s.chan c).pend with
    | true => exact ⟨s, takeFiring_lost hp⟩
    | false =>
      cases hh : s.hctx with
      | none => rwa [takeFiring_runs hen hp hh]
      | refresh => exact ⟨_, takeFiring_in_handler hen hh⟩

/-- R62: the codes 0 and 1 are those of the two channels. -/
theorem exists_decodeEvent {ev : Byte} (h : ev.toNat ≤ 1) : ∃ c, decodeEvent ev = some c := by
  obtain rfl | rfl := eq_zero_or_one_of_le h
  · exact ⟨.ch0, rfl⟩
  · exact ⟨.ch1, rfl⟩

/-- R60, R191: a word given to the port is executed or refused. -/
theorem giveCommand_completes (w : CommandWord) (hclock : s.wallTime.legal = true) :
    ∃ t, giveCommand (execWith cfg) w s = .next t := by
  unfold giveCommand
  split
  · exact execWith_completes _ hclock
  · exact ⟨_, rfl⟩

/-- R103, R199: the callback served finds a legal WallClock, and the micro-step a pattern for its slot. -/
theorem ownStep_completes (h : s.Inv) : ∃ t, ownStep (execWith cfg) cfg s = .next t := by
  unfold ownStep
  obtain ⟨c, v, -, -, hv, hown⟩ | ⟨-, -, hown⟩ | ⟨-, -, hown⟩ := ownAction_cases s <;> rw [hown]
  · have hinv : v.Inv := by
      obtain rfl | rfl := hv
      · exact h
      · exact inv_choice _ h
    exact execWith_completes _ (inv_clearPending c hinv).clock
  · exact microStep_next ⟨_, slotPattern_eq_slot h cfg s.seqPos⟩
  · exact ⟨s, rfl⟩

/-- R190: under the invariant each kind of transition answers a next state. -/
theorem stepWith_completes (cfg : Config) (h : s.Inv) (hcodes : ∀ ev rest, s.inputs = .event ev :: rest → ev.toNat ≤ 1) :
    ∃ t, stepWith cfg s = .next t := by
  rw [stepWith]
  obtain ⟨l, rest, hi⟩ | ⟨rest, hi⟩ | ⟨ev, rest, hi⟩ | ⟨w, rest, hi, hm⟩ | ⟨rest, harb⟩ := arbitrate_cases s
  · exact ⟨_, transition_line hi⟩
  · exact ⟨_, transition_powerOn hi⟩
  · obtain ⟨c, hdec⟩ := exists_decodeEvent (hcodes ev rest hi)
    rw [transition_event hi, deliverEvent, hdec]
    exact takeFiring_completes c (execWith_completes _ h.clock)
  · rw [transition_command hi hm]
    exact giveCommand_completes w h.clock
  · rw [transition_own harb]
    exact ownStep_completes (inv_inputs rest h)

end

/-- Settles O20: the machine is the step relation at `chip`. -/
theorem stepNeverStops : Obligations.StepNeverStops := fun s h hcodes =>
  ⟨step_eq_stepWith s ▸ stepWith_completes chip h hcodes, fun cfg => stepWith_completes cfg h hcodes⟩

/-! ## BAD_OPERAND -/

section
variable {ch g : Byte} {ms : Half}

/-- R61: the operands 0 and 1 name a channel. -/
theorem exists_channelOf (h : ch.toNat ≤ 1) : ∃ c, channelOf ch = some c := by
  obtain rfl | rfl := eq_zero_or_one_of_le h
  · exact ⟨.ch0, rfl⟩
  · exact ⟨.ch1, rfl⟩

/-- R89: the selectors 0 and 1 name a glyph. -/
theorem exists_encPunctuation {cfg : Config} (h : g.toNat ≤ 1) : ∃ p, encPunctuation cfg g = some p := by
  obtain rfl | rfl := eq_zero_or_one_of_le h
  · exact ⟨_, rfl⟩
  · exact ⟨_, rfl⟩

/-- R161: the operands of TREG are legal exactly when they name a channel and a period it takes. -/
theorem operandsLegal_treg_iff :
    operandsLegal (.treg ch ms) = true ↔ ∃ c, channelOf ch = some c ∧ periodLegal c ms = true := by
  by_cases hle : ch.toNat ≤ 1
  · obtain rfl | rfl := eq_zero_or_one_of_le hle
    · simp [operandsLegal, channelOf, periodLegal]
    · simp [operandsLegal, channelOf, periodLegal]
  · simp [operandsLegal, hle, channelOf_of_gt (Nat.lt_of_not_le hle)]

end

/-- R33, R180: the operands of WR are legal exactly when they name a register and a value it takes. -/
theorem operandsLegal_wr_iff {r v : Byte} :
    operandsLegal (.wr r v) = true ↔ ∃ reg, regOf r = some reg ∧ regLegal reg v = true := by
  rw [operandsLegal]
  cases hr : regOf r with
  | none => simp
  | some reg => simpa using regReadOnly_of_regLegal

/-- R192: an operation with an illegal operand value is refused, whatever the state. -/
theorem exec_of_operands_illegal {i : Instr} {s : State} (h : operandsLegal i = false) :
    exec i s = .next (refusedWith 0x02 s) := by
  cases i with
  | encc | render | regen | tick | refresh => cases h
  | encd d => exact exec_encd_of_none (encDigit_none.2 (Nat.lt_of_not_le (of_decide_eq_false h)))
  | encp g => exact exec_encp_of_none (encPunctuation_of_gt (Nat.lt_of_not_le (of_decide_eq_false h)))
  | treg ch ms =>
    cases hc : channelOf ch with
    | none => exact exec_of_channelOf_none (ms := ms) (by simp) hc
    | some c =>
      exact exec_treg_of_illegal hc fun hp => Bool.eq_false_iff.1 h (operandsLegal_treg_iff.2 ⟨c, hc, hp⟩)
  | trev ch | trst ch =>
    exact exec_of_channelOf_none (ch := ch) (ms := 0) (by simp) (channelOf_of_gt (Nat.lt_of_not_le (of_decide_eq_false h)))
  | wr r v =>
    exact exec_wr_of_illegal fun reg hr =>
      Bool.eq_false_iff.2 fun hl => Bool.eq_false_iff.1 h (operandsLegal_wr_iff.2 ⟨reg, hr, hl⟩)
  | rd r => exact exec_rd_of_regOf_none (regOf_eq_none_iff.2 (Nat.lt_of_not_le (of_decide_eq_false h)))
  | wrt j c => exact exec_of_textIndex_illegal (i := j) (c := c) (by simp) (Nat.le_of_not_lt (of_decide_eq_false h))
  | rdt j => exact exec_of_textIndex_illegal (i := j) (c := 0) (by simp) (Nat.le_of_not_lt (of_decide_eq_false h))

/-- R160: the responses are no part of a channel. -/
theorem setChan_responses (s : State) (c : Channel) (t : TimerChannel) : (s.setChan c t).responses = s.responses := by
  rw [setChan_frame]

/-- R68, R192, R205: an operation with legal operand values answers, or is refused by an admission condition, with another code, or
gives no response yet. -/
theorem exec_of_operandsLegal {i : Instr} (h : operandsLegal i = true) (s : State) :
    (∃ d u, exec i s = .next (answered d u) ∧ u.responses = s.responses) ∨
    (∃ code : Byte, code ≠ 0x02 ∧ exec i s = .next (refusedWith code s)) ∨
    (∀ t, exec i s = .next t → t.responses = s.responses) := by
  cases i with
  | encd d => exact .inl ⟨_, _, exec_encd_of_some (encDigit_of_le (of_decide_eq_true h)), rfl⟩
  | encc c => exact .inl ⟨_, _, rfl, rfl⟩
  | encp g =>
    obtain ⟨p, hp⟩ := exists_encPunctuation (of_decide_eq_true h)
    exact .inl ⟨_, _, exec_encp_of_some hp, rfl⟩
  | render n =>
    obtain ⟨hrefused, hadmitted, -⟩ := renderIsAdmittedOrRefused s n
    cases hen : s.chan1.en with
    | true => exact .inr (.inl ⟨0x03, by decide, hrefused hen⟩)
    | false => exact .inr (.inr fun t ht => by cases (hadmitted hen).symm.trans ht; rfl)
  | treg ch ms =>
    obtain ⟨c, hc, hp⟩ := operandsLegal_treg_iff.1 h
    exact .inl ⟨_, _, exec_treg_of_legal hc hp, setChan_responses ..⟩
  | trev ch =>
    obtain ⟨c, hc⟩ := exists_channelOf (of_decide_eq_true h)
    cases hr : (s.chan c).reg with
    | true => exact .inl ⟨_, _, exec_trev_of_registered hc hr, setChan_responses ..⟩
    | false => exact .inr (.inl ⟨0x04, by decide, exec_trev_of_unregistered hc hr⟩)
  | trst ch =>
    obtain ⟨c, hc⟩ := exists_channelOf (of_decide_eq_true h)
    cases hr : (s.chan c).reg with
    | true => exact .inl ⟨_, _, exec_trst_of_registered hc hr, setChan_responses ..⟩
    | false => exact .inr (.inl ⟨0x04, by decide, exec_trst_of_unregistered hc hr⟩)
  | wr r v =>
    obtain ⟨reg, hr, hl⟩ := operandsLegal_wr_iff.1 h
    exact .inl ⟨_, _, exec_wr_of_legal hr hl, by rw [regWrite_frame]⟩
  | rd r =>
    obtain ⟨reg, hr⟩ := exists_regOf (of_decide_eq_true h)
    exact .inl ⟨_, _, exec_rd_of_regOf hr, rfl⟩
  | wrt j c => exact .inl ⟨_, _, if_pos h, rfl⟩
  | rdt j => exact .inl ⟨_, _, if_pos h, rfl⟩
  | regen => exact .inl ⟨_, _, rfl, rfl⟩
  | tick => exact .inr (.inr fun t ht => (background_callback (c := .ch0) ht).responses)
  | refresh => exact .inr (.inr fun t ht => (background_callback (c := .ch1) ht).responses)

/-- R68, R192: a response of another status than `0x02` is not BAD_OPERAND. -/
theorem append_ne_badOperand (rs : List Half) {status : Byte} (data : Byte) (h : status ≠ 0x02) :
    rs ++ [status ++ data] ≠ rs ++ [(0x0200 : Half)] := fun he =>
  h (status_eq_of_append_eq (data' := 0x00) (List.singleton_inj.1 (List.append_cancel_left he)))

/-- Settles O25: an illegal operand value refuses, and none of the three answers to legal ones has status `0x02`. -/
theorem badOperandExactlyOnIllegalValues : Obligations.BadOperandExactlyOnIllegalValues := by
  refine fun i s => ⟨exec_of_operands_illegal, fun hl t ht => ?_⟩
  obtain ⟨d, u, hrun, hu⟩ | ⟨code, hcode, hrun⟩ | hsame := exec_of_operandsLegal hl s
  · cases hrun.symm.trans ht
    rw [answered, hu]
    exact append_ne_badOperand _ d (by decide)
  · cases hrun.symm.trans ht
    exact append_ne_badOperand _ 0x00 hcode
  · rw [hsame t ht]
    simp

end Sys2Proof.Proofs
end

section
/-! PROOFS. The family of 70_reset_and_hazards.md: the idle block, and power-on as the next input. -/

open Sys2Proof Sys2Proof.Machine Sys2Proof.Claims

namespace Sys2Proof.Proofs

/-- Settles O14: under an empty schedule the step is the block's own, and where the host may step the block has no callback due and no
pass in progress. -/
theorem idleBlockStaysAsItIs : Obligations.IdleBlockStaysAsItIs := by
  intro s hm hinputs
  obtain ⟨-, hidle, hdue0, hdue1⟩ := hostMayStep_iff.1 hm
  calc step s
    _ = ownStep exec chip s := transition_nil hinputs
    _ = .next s := ownStep_idle hidle ⟨hdue0, hdue1⟩

/-- R220, R221: at `chip` power-on is the reset of the machine, whose `RST.*` values are the spec's defaults (`reset_eq`). -/
theorem powerOn_chip (s : State) :
    powerOn chip s = { State.reset with
      swN := s.swN, inputs := s.inputs, trace := s.trace, responses := s.responses, choice := s.choice } := by
  rw [reset_eq, powerOn]

/-- Settles O17: a power-on input is taken first, whatever else is in progress, and what it leads to takes from the state before it only
what the environment holds. -/
theorem powerOnResetsEverything : Obligations.PowerOnResetsEverything := by
  intro s rest hinputs
  refine ⟨?_, fun cfg => ?_⟩
  · rw [step_eq, transition_powerOn hinputs, powerOn_chip]
  · rw [stepWith, transition_powerOn hinputs, powerOn]

end Sys2Proof.Proofs
end

section
/-! PROOFS. The family 'other': the worked encodings of 30_encoding.md section 8. -/

open Sys2Proof Sys2Proof.Claims

namespace Sys2Proof.Proofs

/-- Settles O4: a word decodes to the well-formed term it encodes (`decodeCommand_eq_ok_iff`), and the encoder gives each of the 14 words. -/
theorem workedEncodingsDecode : Obligations.WorkedEncodingsDecode := by
  simp only [Obligations.WorkedEncodingsDecode, decodeCommand_eq_ok_iff]
  decide

end Sys2Proof.Proofs
end
